-- ==== Sys2Proof/Word.lean ====
section
/-! DEFINITION. The fixed-width values of the block: bytes, 16-bit CRC words, 35-bit operation words
(00_scope.md R4, R6; 30_encoding.md R61). All values are unsigned. -/

namespace Sys2Proof

/-- A byte of the wire or of the scratch buffer (00_scope.md R4 "byte width"). -/
abbrev Byte := BitVec 8

/-- A running CRC value (00_scope.md R4 "CRC width"). -/
abbrev Word := BitVec 16

/-- An operation word as presented at the operation port (30_encoding.md R61). -/
abbrev OpWord := BitVec 35

/-- The type of the open parameter `CRC16_STEP` (00_scope.md R4, 40_crc16.md R91). -/
abbrev CrcStep := Word → Byte → Word

end Sys2Proof
end

