-- ==== Sys2Proof/Config.lean ====
section
/-! DEFINITION. The constants of this hardware (00_scope.md R4) and the values the spec leaves open,
which are opaque constants without a body. The default instantiation of `CRC16_STEP` is in
Machine/Crc.lean. -/

namespace Sys2Proof.Config

/-- `MAX_PAYLOAD` (00_scope.md R4). -/
abbrev maxPayload : Nat := 120

/-- `CRC16_SEED` (00_scope.md R4, 92_eei_decisions.md D3). -/
def crc16Seed : Word := 0xFFFF

/-- The OPEN parameters that some rule reads: "A model takes the ones marked OPEN as arguments"
(00_scope.md R4; 40_crc16.md R91; 93_implementation_defined.md U1, U4). `Machine.coreFor` is the
machine of a choice of them. -/
structure Parameters where
  /-- `CRC16_STEP` -/
  crc16Step : CrcStep
  /-- `PURGE_ON_ERROR` -/
  purgeOnError : Bool

/-- The strap value that `cfg_purge` has after power-on in `State.reset`. DESIGN CHOICE (log entry 4):
`PURGE_ON_ERROR` is open (00_scope.md R4), so no statement rests on this value. -/
def purgeOnError : Bool := false

/-- Free value: the byte at a location of `rx_buf` that nothing has written since the power-on reset
numbered by the first argument (10_state.md R18; 93_implementation_defined.md U3; log entry 5).
DESIGN CHOICE (log entry 21): the value takes no session argument, so two sessions with equal power
cycle counters draw the same byte at the same location. -/
opaque powerOnByte : Nat → Nat → Byte

/-- Free value: the draw that fixes how much the n-th purge removes from the transport's inbound
sequence (20_memory.md R44; 93_implementation_defined.md U2; log entry 12). DESIGN CHOICE (log entry
21): the draw takes no session argument, so two transports with equal purge counts draw the same
number. -/
opaque purgeDraw : Nat → Nat

/-- The five flags of the sticky status, by name (10_state.md R20). -/
inductive StatusFlag
  | nodev | bus | comm | param | len
  deriving DecidableEq, Repr

/-- `STATUS_ENCODING` (00_scope.md R4): the bit positions of the flags, open, used by no rule
(10_state.md R20; 93_implementation_defined.md U12; log entry 11). -/
opaque statusEncoding : StatusFlag → Nat

end Sys2Proof.Config
end

