-- ==== Sys2Proof/Syntax.lean ====
section
/-! DEFINITION. The operations of the block, the command-id rows of the opcode table, the words that
carry them, and the call of the reference serializer (30_encoding.md R60, R61, R65, R76). -/

namespace Sys2Proof

/-- The payload-size class `cmdId[2:1]` (30_encoding.md R65, R66). -/
inductive PayloadClass
  /-- `0b00`: fixed 0 bytes -/
  | len0
  /-- `0b01`: fixed 2 bytes -/
  | len2
  /-- `0b10`: a length byte follows -/
  | lenN
  /-- `0b11`: unrecognized policy -/
  | bad
  deriving DecidableEq, Repr

/-- One constructor per row of spec/opcode_table.json. The first sixteen are operation words
(30_encoding.md R61); the last four are the command-id byte that RXBYTE decodes in state `ACMD`
(30_encoding.md R66), with its fields `cmdnum` and `reply` (R65). -/
inductive Instr
  | nop
  | reset
  | rxbyte (din : Byte)
  | rxtimeout
  | stRead
  | stClear
  | bufRead (idx : BitVec 7)
  | crc16Seed
  | crc16Step (crcIn : Word) (din : Byte)
  | reserved9
  | reservedA
  | reservedB
  | reservedC
  | reservedD
  | reservedE
  | reservedF
  | cmdidLen0 (cmdnum : BitVec 5) (reply : BitVec 1)
  | cmdidLen2 (cmdnum : BitVec 5) (reply : BitVec 1)
  | cmdidLenN (cmdnum : BitVec 5) (reply : BitVec 1)
  | cmdidBad (cmdnum : BitVec 5) (reply : BitVec 1)
  deriving DecidableEq, Repr

/-- What is encoded (30_encoding.md R60): an operation word of 35 bits, or a wire byte in the place of
a command-id byte. -/
inductive Code
  | op (w : OpWord)
  | cmdId (b : Byte)
  deriving DecidableEq, Repr

/-- A call of the reference serializer `FRAME cmd, addr, [payload]` (30_encoding.md R76). -/
structure FrameCall where
  cmd : Byte
  addr : Byte
  payload : List Byte
  deriving DecidableEq, Repr

end Sys2Proof
end

