-- ==== Sys2Proof/WellFormed.lean ====
section
/-! DEFINITION. Well-formedness. An operand of `Instr` is a field of its exact width and every value
of it is accepted (30_encoding.md R62), so each term of `Instr` is well formed. The serializer's
call has the `requires` clause of 30_encoding.md R76. -/

namespace Sys2Proof

/-- No operand value of an operation is ill formed: "Each operand is the unsigned value of its field"
(30_encoding.md R62); `idx` 120 to 127 can be written and is answered with `R_RANGE` (R73). -/
def Instr.wellFormed : Instr → Bool
  | .nop | .reset | .rxbyte _ | .rxtimeout | .stRead | .stClear | .bufRead _ => true
  | .crc16Seed | .crc16Step _ _ => true
  | .reserved9 | .reservedA | .reservedB | .reservedC | .reservedD | .reservedE | .reservedF => true
  | .cmdidLen0 _ _ | .cmdidLen2 _ _ | .cmdidLenN _ _ | .cmdidBad _ _ => true

/-- The `requires` clause of `FRAME` (30_encoding.md R76): a fixed class has exactly its payload, the
variable class at most `MAX_PAYLOAD` bytes, and class `0b11` has none. -/
def FrameCall.wellFormed (c : FrameCall) : Bool :=
  match c.cmd.extractLsb' 1 2 with
  | 0b00#2 => c.payload.length == 0
  | 0b01#2 => c.payload.length == 2
  | 0b10#2 => decide (c.payload.length ≤ Config.maxPayload)
  | _ => false

end Sys2Proof
end

