-- ==== Sys2Proof/Decode.lean ====
section
/-! DEFINITION. Decoding and encoding, written from the field tables of 30_encoding.md R61, R65, R66
and spec/opcode_table.json. -/

namespace Sys2Proof

/-! ## The fields of an operation word (30_encoding.md R61) -/

/-- Bits 3:0. -/
def OpWord.op (w : OpWord) : BitVec 4 := w.extractLsb' 0 4

/-- Bits 11:4. -/
def OpWord.din (w : OpWord) : Byte := w.extractLsb' 4 8

/-- Bits 27:12. -/
def OpWord.crcIn (w : OpWord) : Word := w.extractLsb' 12 16

/-- Bits 34:28. -/
def OpWord.idx (w : OpWord) : BitVec 7 := w.extractLsb' 28 7

/-- An operation word from its four fields. -/
def OpWord.ofFields (op : BitVec 4) (din : Byte) (crcIn : Word) (idx : BitVec 7) : OpWord :=
  ((idx ++ crcIn) ++ din) ++ op

/-! ## The fields of a command-id byte (30_encoding.md R65) -/

/-- `cmdId[7:3]`. -/
def cmdNum (b : Byte) : BitVec 5 := b.extractLsb' 3 5

/-- `cmdId[0]`. -/
def replyBit (b : Byte) : BitVec 1 := b.extractLsb' 0 1

/-- The class decode of `cmdId[2:1]` (30_encoding.md R66). -/
def payloadClass (b : Byte) : PayloadClass :=
  match b.extractLsb' 1 2 with
  | 0b00#2 => .len0
  | 0b01#2 => .len2
  | 0b10#2 => .lenN
  | _ => .bad

/-- The two class bits of each class (30_encoding.md R66). -/
def PayloadClass.bits : PayloadClass → BitVec 2
  | .len0 => 0b00
  | .len2 => 0b01
  | .lenN => 0b10
  | .bad => 0b11

/-- A command-id byte from its three fields. -/
def cmdIdByte (cmdnum : BitVec 5) (cl : PayloadClass) (reply : BitVec 1) : Byte :=
  (cmdnum ++ cl.bits) ++ reply

/-! ## Decode -/

/-- The operation a word selects (30_encoding.md R61): every one of the 16 codes is a row, so there is
no operation word without a meaning. Unused fields are ignored (R62). -/
def decodeOp (w : OpWord) : Instr :=
  match w.op with
  | 0x0#4 => .nop
  | 0x1#4 => .reset
  | 0x2#4 => .rxbyte w.din
  | 0x3#4 => .rxtimeout
  | 0x4#4 => .stRead
  | 0x5#4 => .stClear
  | 0x6#4 => .bufRead w.idx
  | 0x7#4 => .crc16Seed
  | 0x8#4 => .crc16Step w.crcIn w.din
  | 0x9#4 => .reserved9
  | 0xA#4 => .reservedA
  | 0xB#4 => .reservedB
  | 0xC#4 => .reservedC
  | 0xD#4 => .reservedD
  | 0xE#4 => .reservedE
  | _ => .reservedF     -- 0xF, the one code left

/-- The command-id row a byte matches (30_encoding.md R66): mask `0x06`. -/
def decodeCmdId (b : Byte) : Instr :=
  match payloadClass b with
  | .len0 => .cmdidLen0 (cmdNum b) (replyBit b)
  | .len2 => .cmdidLen2 (cmdNum b) (replyBit b)
  | .lenN => .cmdidLenN (cmdNum b) (replyBit b)
  | .bad => .cmdidBad (cmdNum b) (replyBit b)

/-- Decoding of what is presented at the port: total. -/
def decode : Code → Instr
  | .op w => decodeOp w
  | .cmdId b => decodeCmdId b

/-- Why a string of bits is not a code of the block. -/
inductive DecodeError
  /-- there are no bits at all -/
  | noBits
  /-- a bit is set above the stated number of bits -/
  | bitsAboveWidth
  /-- a bit above bit 34 is set: an operation word has 35 bits (30_encoding.md R61) -/
  | bitsAboveOperationWord
  deriving DecidableEq, Repr

/-- The code that `nbits` bits of value `w` spell: one byte is a command-id byte (format `CMDID`, 8
bits), more are an operation word (format `OP`, 35 bits). -/
def tableCode (nbits w : Nat) : Except DecodeError Code :=
  if nbits = 0 then .error .noBits
  else if 2 ^ nbits ≤ w then .error .bitsAboveWidth
  else if nbits ≤ 8 then .ok (.cmdId (BitVec.ofNat 8 w))
  else if 2 ^ 35 ≤ w then .error .bitsAboveOperationWord
  else .ok (.op (BitVec.ofNat 35 w))

/-- The value of a list of bytes, the first byte least significant (the numbering of
spec/opcode_table.json). -/
def bytesValue : List Byte → Nat
  | [] => 0
  | b :: bs => b.toNat + 256 * bytesValue bs

/-- Decoding of any bytes, rejecting by name. -/
def decodeBytes (bs : List Byte) : Except DecodeError Instr :=
  (tableCode (8 * bs.length) (bytesValue bs)).map decode

/-- The decoder on a row of spec/opcode_table.json: `none` where it rejects. -/
def decodeTableWord (nbits w : Nat) : Option Instr :=
  match tableCode nbits w with
  | .ok c => some (decode c)
  | .error _ => none

/-! ## Encode -/

/-- The code of an instruction; every field an operation does not use is written as 0
(30_encoding.md R75). -/
def encode : Instr → Code
  | .nop => .op (OpWord.ofFields 0x0 0 0 0)
  | .reset => .op (OpWord.ofFields 0x1 0 0 0)
  | .rxbyte din => .op (OpWord.ofFields 0x2 din 0 0)
  | .rxtimeout => .op (OpWord.ofFields 0x3 0 0 0)
  | .stRead => .op (OpWord.ofFields 0x4 0 0 0)
  | .stClear => .op (OpWord.ofFields 0x5 0 0 0)
  | .bufRead idx => .op (OpWord.ofFields 0x6 0 0 idx)
  | .crc16Seed => .op (OpWord.ofFields 0x7 0 0 0)
  | .crc16Step crcIn din => .op (OpWord.ofFields 0x8 din crcIn 0)
  | .reserved9 => .op (OpWord.ofFields 0x9 0 0 0)
  | .reservedA => .op (OpWord.ofFields 0xA 0 0 0)
  | .reservedB => .op (OpWord.ofFields 0xB 0 0 0)
  | .reservedC => .op (OpWord.ofFields 0xC 0 0 0)
  | .reservedD => .op (OpWord.ofFields 0xD 0 0 0)
  | .reservedE => .op (OpWord.ofFields 0xE 0 0 0)
  | .reservedF => .op (OpWord.ofFields 0xF 0 0 0)
  | .cmdidLen0 n r => .cmdId (cmdIdByte n .len0 r)
  | .cmdidLen2 n r => .cmdId (cmdIdByte n .len2 r)
  | .cmdidLenN n r => .cmdId (cmdIdByte n .lenN r)
  | .cmdidBad n r => .cmdId (cmdIdByte n .bad r)

/-! ## The opcode table as rows -/

/-- A row of spec/opcode_table.json: its mnemonic, its mask and its match, as a code of its format. -/
structure OpcodeRow where
  mnemonic : String
  mask : Code
  pattern : Code
  deriving DecidableEq, Repr

/-- A code fits a row when it is of the row's format and agrees with the pattern under the mask. -/
def OpcodeRow.fits (r : OpcodeRow) (c : Code) : Bool :=
  match r.mask, r.pattern, c with
  | .op m, .op p, .op w => w &&& m == p
  | .cmdId m, .cmdId p, .cmdId b => b &&& m == p
  | _, _, _ => false

/-- A row of format `OP`: mask `0x00000000F`. -/
def opRow (mnemonic : String) (code : BitVec 4) : OpcodeRow :=
  { mnemonic := mnemonic, mask := .op 0x00000000F, pattern := .op (code.setWidth 35) }

/-- A row of format `CMDID`: mask `0x06`. -/
def cmdIdRow (mnemonic : String) (pattern : Byte) : OpcodeRow :=
  { mnemonic := mnemonic, mask := .cmdId 0x06, pattern := .cmdId pattern }

/-- spec/opcode_table.json, row by row. -/
def opcodeTable : List OpcodeRow :=
  [opRow "NOP" 0x0, opRow "RESET" 0x1, opRow "RXBYTE" 0x2, opRow "RXTIMEOUT" 0x3,
   opRow "ST_READ" 0x4, opRow "ST_CLEAR" 0x5, opRow "BUF_READ" 0x6] ++
  [opRow "CRC16.SEED" 0x7, opRow "CRC16.STEP" 0x8] ++
  [opRow "RESERVED.9" 0x9, opRow "RESERVED.A" 0xA, opRow "RESERVED.B" 0xB, opRow "RESERVED.C" 0xC,
   opRow "RESERVED.D" 0xD, opRow "RESERVED.E" 0xE, opRow "RESERVED.F" 0xF] ++
  [cmdIdRow "CMDID.LEN0" 0x00, cmdIdRow "CMDID.LEN2" 0x02, cmdIdRow "CMDID.LENN" 0x04,
   cmdIdRow "CMDID.BAD" 0x06]

/-- The table's mnemonic of an instruction. -/
def Instr.mnemonic : Instr → String
  | .nop => "NOP"
  | .reset => "RESET"
  | .rxbyte _ => "RXBYTE"
  | .rxtimeout => "RXTIMEOUT"
  | .stRead => "ST_READ"
  | .stClear => "ST_CLEAR"
  | .bufRead _ => "BUF_READ"
  | .crc16Seed => "CRC16.SEED"
  | .crc16Step _ _ => "CRC16.STEP"
  | .reserved9 => "RESERVED.9"
  | .reservedA => "RESERVED.A"
  | .reservedB => "RESERVED.B"
  | .reservedC => "RESERVED.C"
  | .reservedD => "RESERVED.D"
  | .reservedE => "RESERVED.E"
  | .reservedF => "RESERVED.F"
  | .cmdidLen0 _ _ => "CMDID.LEN0"
  | .cmdidLen2 _ _ => "CMDID.LEN2"
  | .cmdidLenN _ _ => "CMDID.LENN"
  | .cmdidBad _ _ => "CMDID.BAD"

end Sys2Proof
end

