-- ==== Sys2Proof/Machine/State.lean ====
section
/-! DEFINITION. The state of the machine as plain data: the eleven elements of one block instance
(10_state.md R10), the outputs of the last step (R23, R24), what the host presents at the operation
port, and the reset state (R26; 70_reset_and_hazards.md R190). -/

namespace Sys2Proof.Machine

/-- Why the machine would stop with a fault. There is no such reason: "all failures are returned as
status values, never raised as uncatchable faults" (60_exceptions.md). -/
inductive Fault
  deriving DecidableEq, Repr

/-- Why a step has no meaning. -/
inductive Refusal
  /-- Raised by `exec` for an operation that has no meaning in the model yet. Safe: the model stops
  where the hardware goes on. -/
  | notModelled (mnemonic : String)
  /-- Raised by `step` when two or more operations are presented to the block at the same time: "the
  block gives them no meaning (refuse)" (20_memory.md R50; 93_implementation_defined.md U6). Safe. -/
  | overlappingOperations
  deriving DecidableEq, Repr

/-- `rx_state`: which byte of a frame the machine awaits (10_state.md R11). -/
inductive RxState
  | acmd | asize | aaddr | apay | acrch | acrcl
  deriving DecidableEq, Repr

/-- `status`: the sticky cumulative error set, five flags (10_state.md R20). -/
structure Status where
  nodev : Bool
  bus : Bool
  comm : Bool
  param : Bool
  len : Bool
  deriving DecidableEq, Repr

/-- The result of an operation (10_state.md R23). -/
inductive Result
  /-- `R_OK` -/
  | ok
  /-- `R_PENDING` -/
  | pending
  /-- `R_COMPLETE` -/
  | complete
  /-- `R_ERR_CLASS` -/
  | errClass
  /-- `R_ERR_OVERRUN` -/
  | errOverrun
  /-- `R_ERR_CRC` -/
  | errCrc
  /-- `R_TIMEOUT` -/
  | timeout
  /-- `R_RANGE` -/
  | range
  /-- `R_BADOP` -/
  | badop
  deriving DecidableEq, Repr

/-- The four exception causes with what `raise E(info)` names (60_exceptions.md R160). The info is for
a trace only; no register keeps it. -/
inductive Cause
  | eClass (byte : Byte)
  | eOverrun (byte : Byte)
  | eCrc (received : Word)
  | eTimeout
  deriving DecidableEq, Repr

/-- The scratch buffer `rx_buf` as a list of written locations, the addresses strictly rising and
below `MAX_PAYLOAD` (10_state.md R18; 20_memory.md R41). An unlisted location holds no value the
spec names. -/
abbrev Memory := List Host.Cell

/-- The whole state of one block instance: "the eleven elements of this table and nothing else"
(10_state.md R10). -/
structure Block where
  /-- R11 -/
  rxState : RxState
  /-- R12: 0 to `MAX_PAYLOAD` -/
  rxPos : Fin (Config.maxPayload + 1)
  /-- R13 -/
  rxCrc : Word
  /-- R14 -/
  rxCmdid : Byte
  /-- R15 -/
  rxAddr : Byte
  /-- R16 -/
  rxLen : Byte
  /-- R17 -/
  rxCrch : Byte
  /-- R18 -/
  rxBuf : Memory
  /-- R19 -/
  rxValid : Bool
  /-- R20 -/
  status : Status
  /-- R21: a strap, written by nothing -/
  cfgPurge : Bool
  deriving DecidableEq, Repr

/-- The outputs of a step that are not level outputs (10_state.md R23, R24). -/
structure Outputs where
  result : Result
  purgeReq : Bool
  crcOut : Word
  dout : Byte
  stOut : Status
  deriving DecidableEq, Repr

/-- The level outputs, each equal to the register of the same name (10_state.md R24). -/
structure Levels where
  rxValid : Bool
  rxCmdid : Byte
  rxAddr : Byte
  rxLen : Byte
  rxState : RxState
  deriving DecidableEq, Repr

/-- What the host presents in one step: the power-on reset input and the codes at the operation port.
One code is an operation; none is an idle step; two or more are the overlap of 20_memory.md R50. -/
structure PortInput where
  por : Bool
  ops : List Code
  deriving DecidableEq, Repr

/-- The machine of this row: the block, the outputs of its last step, and the host's side of the
operation port (log entry 1). -/
structure State where
  /-- the eleven elements of the block -/
  block : Block
  /-- the outputs of the last step, "valid until the next operation" (10_state.md R23) -/
  out : Outputs
  /-- what the host presents in the coming steps, oldest first -/
  port : List PortInput
  /-- the model's own counter: power-on resets since the first, selects the free values of `rx_buf` -/
  powerCycles : Nat
  deriving DecidableEq, Repr

/-- The state after power-on reset (10_state.md R26; 70_reset_and_hazards.md R190). -/
def State.reset : State where
  block :=
    { rxState := .acmd, rxPos := 0, rxCrc := 0, rxCmdid := 0, rxAddr := 0, rxLen := 0, rxCrch := 0,
      rxBuf := [], rxValid := false,
      status := { nodev := false, bus := false, comm := false, param := false, len := false },
      cfgPurge := Config.purgeOnError }
  out :=
    { result := .ok, purgeReq := false, crcOut := 0, dout := 0,
      stOut := { nodev := false, bus := false, comm := false, param := false, len := false } }
  port := []
  powerCycles := 0

end Sys2Proof.Machine
end

