-- ==== Sys2Proof/Machine/Flags.lean ====
section
/-! DEFINITION. The status flags, the result codes and the results of the causes (10_state.md R20,
R23; 60_exceptions.md R160). -/

namespace Sys2Proof.Machine

/-- All five flags 0 (42_control_status.md R143; 70_reset_and_hazards.md R190). -/
def Status.clear : Status :=
  { nodev := false, bus := false, comm := false, param := false, len := false }

/-- `status.COMM <- 1`: a flag is set by OR, the other four stay (10_state.md R20). -/
def Status.setComm (s : Status) : Status := { s with comm := true }

/-- The numeric code of each result (10_state.md R23). -/
def Result.code : Result → BitVec 4
  | .ok => 0
  | .pending => 1
  | .complete => 2
  | .errClass => 3
  | .errOverrun => 4
  | .errCrc => 5
  | .timeout => 6
  | .range => 7
  | .badop => 8

/-- The numeric code of each receive state (10_state.md R11). -/
def RxState.code : RxState → BitVec 3
  | .acmd => 0
  | .asize => 1
  | .aaddr => 2
  | .apay => 3
  | .acrch => 4
  | .acrcl => 5

/-- The result that reports a cause (60_exceptions.md R160). -/
def Cause.result : Cause → Result
  | .eClass _ => .errClass
  | .eOverrun _ => .errOverrun
  | .eCrc _ => .errCrc
  | .eTimeout => .timeout

/-- The first three causes are framing errors; a timeout "is distinct from a framing error"
(60_exceptions.md R160). -/
def Cause.isFramingError : Cause → Bool
  | .eClass _ | .eOverrun _ | .eCrc _ => true
  | .eTimeout => false

end Sys2Proof.Machine
end

