-- ==== Sys2Proof/Machine/Ops.lean ====
section
/-! DEFINITION. The named operations over the scratch buffer, the registers and the outputs; the
session reset; the error response, which is this block's taking of an exception; the power-on
reset. -/

namespace Sys2Proof.Machine

/-! ## The scratch buffer (10_state.md R18; 20_memory.md R40, R41) -/

/-- The byte a location holds, if something has written it. -/
def Memory.read? : Memory → Nat → Option Byte
  | [], _ => none
  | (a, v) :: rest, i => if a = i then some v else Memory.read? rest i

/-- `MemWrite(BUF, i, 1, v)` (00_scope.md R7). -/
def Memory.write : Memory → Nat → Byte → Memory
  | [], i, v => [(i, v)]
  | (a, u) :: rest, i, v =>
    if i < a then (i, v) :: (a, u) :: rest
    else if i = a then (i, v) :: rest
    else (a, u) :: Memory.write rest i v

/-- The listed addresses start at `lo` or above, rise strictly, and are locations of the buffer. -/
def Memory.wfFrom : Nat → Memory → Bool
  | _, [] => true
  | lo, (a, _) :: rest =>
    decide (lo ≤ a) && decide (a < Config.maxPayload) && Memory.wfFrom (a + 1) rest

/-- The canonical form of the buffer. -/
def Memory.wf (m : Memory) : Bool := Memory.wfFrom 0 m

/-- `MemRead(BUF, i, 1)` (00_scope.md R7): a location nothing has written reads as a free value of this
power cycle (10_state.md R18; log entry 5). -/
def Memory.readByte (powerCycle : Nat) (m : Memory) (i : Nat) : Byte :=
  (m.read? i).getD (Config.powerOnByte powerCycle i)

/-! ## Outputs (10_state.md R23, R24) -/

/-- The outputs of a step that drives only `result`. -/
def Outputs.only (r : Result) : Outputs :=
  { result := r, purgeReq := false, crcOut := 0, dout := 0, stOut := Status.clear }

/-- The level outputs (10_state.md R24). -/
def Block.levels (b : Block) : Levels :=
  { rxValid := b.rxValid, rxCmdid := b.rxCmdid, rxAddr := b.rxAddr, rxLen := b.rxLen,
    rxState := b.rxState }

/-- What an operation leaves: the block's registers and the outputs of the step. -/
structure Response where
  block : Block
  out : Outputs
  deriving DecidableEq, Repr

/-- A step that performed one operation ends with its response (00_scope.md R5). -/
def State.respond (s : State) (r : Response) : Host.Outcome State Fault Refusal :=
  .next { s with block := r.block, out := r.out }

/-! ## Session reset and the error response -/

/-- `SessionReset()` (42_control_status.md R141). -/
def Block.sessionReset (b : Block) : Block :=
  { b with rxState := .acmd, rxPos := 0, rxCrc := 0, rxLen := 0, rxValid := false }

/-- `raise E(info)`: the error response (60_exceptions.md R164 for the framing errors, R165 for a
timeout). It is the block's only exception entry: nothing is saved, control goes to `ACMD`, and
there is no return operation (R169). -/
def raiseError (c : Cause) (b : Block) : Response where
  block := { b.sessionReset with status := b.status.setComm }
  out := { Outputs.only c.result with purgeReq := c.isFramingError && b.cfgPurge }

/-! ## Power-on reset -/

/-- The registers after power-on reset with a given strap; `rx_buf` holds nothing the spec names
(10_state.md R26; 70_reset_and_hazards.md R190). -/
def Block.por (strap : Bool) : Block where
  rxState := .acmd
  rxPos := 0
  rxCrc := 0
  rxCmdid := 0
  rxAddr := 0
  rxLen := 0
  rxCrch := 0
  rxBuf := []
  rxValid := false
  status := Status.clear
  cfgPurge := strap

/-- A step in which POR is asserted (70_reset_and_hazards.md R190): the strap keeps its value
(10_state.md R21), the buffer is unspecified anew. -/
def State.por (s : State) : State :=
  { s with block := Block.por s.block.cfgPurge, out := Outputs.only .ok,
           powerCycles := s.powerCycles + 1 }

end Sys2Proof.Machine
end

