-- ==== Sys2Proof/Machine/Operands.lean ====
section
/-! DEFINITION. The operand forms the operations use: the CRC halves, the class of a command-id byte,
the received trailer, the buffer index (30_encoding.md R62, R66, R72; 41_rx_framing.md R124). -/

namespace Sys2Proof.Machine

/-- Bits 15 to 8 of a CRC value (20_memory.md R45). -/
def hiByte (c : Word) : Byte := c.extractLsb' 8 8

/-- Bits 7 to 0 of a CRC value (20_memory.md R45). -/
def loByte (c : Word) : Byte := c.extractLsb' 0 8

/-- `hi ++ lo`: the 16-bit value of a trailer, high byte first (30_encoding.md R72). -/
def trailer (hi lo : Byte) : Word := hi ++ lo

/-- Does BUF_READ give data at this index? A frame is held, the index is below `rx_len`
(42_control_status.md R144), and it names a location (20_memory.md R48: 120 to 127 "name nothing and
are refused"). -/
def Block.holdsIndex (b : Block) (idx : BitVec 7) : Bool :=
  b.rxValid && decide (idx.toNat < b.rxLen.toNat) && decide (idx.toNat < Config.maxPayload)

end Sys2Proof.Machine
end

