-- ==== Sys2Proof/Machine/Control.lean ====
section
/-! DEFINITION. The operations that are not part of the byte stream (42_control_status.md): NOP,
RESET, ST_READ, ST_CLEAR, BUF_READ and the reserved codes. -/

namespace Sys2Proof.Machine

/-- NOP (42_control_status.md R140). -/
def execNop (s : State) : Host.Outcome State Fault Refusal :=
  s.respond { block := s.block, out := Outputs.only .ok }

/-- RESET (42_control_status.md R141). -/
def execReset (s : State) : Host.Outcome State Fault Refusal :=
  s.respond { block := s.block.sessionReset, out := Outputs.only .ok }

/-- ST_READ (42_control_status.md R142): reading does not clear. -/
def execStRead (s : State) : Host.Outcome State Fault Refusal :=
  s.respond { block := s.block, out := { Outputs.only .ok with stOut := s.block.status } }

/-- ST_CLEAR (42_control_status.md R143): all five flags. -/
def execStClear (s : State) : Host.Outcome State Fault Refusal :=
  s.respond { block := { s.block with status := Status.clear }, out := Outputs.only .ok }

/-- BUF_READ idx (42_control_status.md R144). -/
def execBufRead (idx : BitVec 7) (s : State) : Host.Outcome State Fault Refusal :=
  s.respond
    { block := s.block
      out := if s.block.holdsIndex idx then
          { Outputs.only .ok with dout := s.block.rxBuf.readByte s.powerCycles idx.toNat }
        else Outputs.only .range }

/-- A reserved operation code: "State written: none" (42_control_status.md R145). -/
def badOperation (s : State) : Host.Outcome State Fault Refusal :=
  s.respond { block := s.block, out := Outputs.only .badop }

/-- RESERVED.9 (42_control_status.md R145). -/
def execReserved9 (s : State) : Host.Outcome State Fault Refusal := badOperation s

/-- RESERVED.A (42_control_status.md R145). -/
def execReservedA (s : State) : Host.Outcome State Fault Refusal := badOperation s

/-- RESERVED.B (42_control_status.md R145). -/
def execReservedB (s : State) : Host.Outcome State Fault Refusal := badOperation s

/-- RESERVED.C (42_control_status.md R145). -/
def execReservedC (s : State) : Host.Outcome State Fault Refusal := badOperation s

/-- RESERVED.D (42_control_status.md R145). -/
def execReservedD (s : State) : Host.Outcome State Fault Refusal := badOperation s

/-- RESERVED.E (42_control_status.md R145). -/
def execReservedE (s : State) : Host.Outcome State Fault Refusal := badOperation s

/-- RESERVED.F (42_control_status.md R145). -/
def execReservedF (s : State) : Host.Outcome State Fault Refusal := badOperation s

end Sys2Proof.Machine
end

