-- ==== Sys2Proof/Machine/Rx.lean ====
section
/-! DEFINITION. The receive framing state machine (41_rx_framing.md): RXBYTE state by state,
RXTIMEOUT, and the four command-id rows. Each rule takes the open parameter `CRC16_STEP` as its
argument `f`, and so do the operations; those of `exec` are their instances at the default. -/

namespace Sys2Proof.Machine

/-! ## RXBYTE state by state -/

/-- The writes of an accepted command-id byte (41_rx_framing.md R111). -/
def acceptCmd (f : CrcStep) (b len : Byte) (next : RxState) (blk : Block) : Response where
  block := { blk with rxValid := false, rxCmdid := b, rxPos := 0, rxCrc := f Config.crc16Seed b,
                      rxLen := len, rxState := next }
  out := Outputs.only .pending

/-- RXBYTE in `ACMD`: what a command-id byte of a given class does (30_encoding.md R66; 41_rx_framing.md
R111; 60_exceptions.md R161). -/
def acceptClass (f : CrcStep) (cl : PayloadClass) (b : Byte) (blk : Block) : Response :=
  match cl with
  | .len0 => acceptCmd f b 0 .aaddr blk
  | .len2 => acceptCmd f b 2 .aaddr blk
  | .lenN => acceptCmd f b 0 .asize blk
  | .bad => raiseError (.eClass b) blk

/-- RXBYTE in `ASIZE`, the length byte, taken as it is (41_rx_framing.md R112). -/
def rxAsize (f : CrcStep) (b : Byte) (blk : Block) : Response where
  block := { blk with rxLen := b, rxCrc := f blk.rxCrc b, rxState := .aaddr }
  out := Outputs.only .pending

/-- RXBYTE in `AADDR`, the address byte (41_rx_framing.md R113). -/
def rxAaddr (f : CrcStep) (b : Byte) (blk : Block) : Response where
  block := { blk with rxAddr := b, rxCrc := f blk.rxCrc b,
                      rxState := if blk.rxLen = 0 then .acrch else .apay }
  out := Outputs.only .pending

/-- RXBYTE in `APAY`, a payload byte (41_rx_framing.md R114; 60_exceptions.md R162). -/
def rxApay (f : CrcStep) (b : Byte) (blk : Block) : Response :=
  if h : blk.rxPos.val < Config.maxPayload then
    { block := { blk with rxBuf := blk.rxBuf.write blk.rxPos.val b, rxCrc := f blk.rxCrc b,
                          rxPos := ⟨blk.rxPos.val + 1, Nat.succ_lt_succ h⟩,
                          rxState := if blk.rxPos.val + 1 = blk.rxLen.toNat then .acrch else .apay }
      out := Outputs.only .pending }
  else raiseError (.eOverrun b) blk

/-- RXBYTE in `ACRCH`, the CRC high byte (41_rx_framing.md R115). -/
def rxAcrch (b : Byte) (blk : Block) : Response where
  block := { blk with rxCrch := b, rxState := .acrcl }
  out := Outputs.only .pending

/-- RXBYTE in `ACRCL`, the CRC low byte: the comparison (41_rx_framing.md R116; 60_exceptions.md
R163). -/
def rxAcrcl (b : Byte) (blk : Block) : Response :=
  if trailer blk.rxCrch b = blk.rxCrc then
    { block := { blk with rxValid := true, rxState := .acmd, rxPos := 0 }
      out := Outputs.only .complete }
  else raiseError (.eCrc (trailer blk.rxCrch b)) blk

/-- A byte taken by the receive machine: `rx_state` selects "exactly one of" the six rules
(41_rx_framing.md R110). The class `cl` matters in `ACMD` only; in every other state the byte has no
class (30_encoding.md R60). -/
def rxDispatch (f : CrcStep) (cl : PayloadClass) (b : Byte) (blk : Block) : Response :=
  match blk.rxState with
  | .acmd => acceptClass f cl b blk
  | .asize => rxAsize f b blk
  | .aaddr => rxAaddr f b blk
  | .apay => rxApay f b blk
  | .acrch => rxAcrch b blk
  | .acrcl => rxAcrcl b blk

/-- RXBYTE: the byte's class is decoded from its bits 2 and 1 (41_rx_framing.md R110, R111). -/
def rxByte (f : CrcStep) (b : Byte) (blk : Block) : Response :=
  rxDispatch f (payloadClass b) b blk

/-- RXTIMEOUT: `E_TIMEOUT` in whatever state the machine is in (41_rx_framing.md R117;
60_exceptions.md R165). -/
def rxTimeout (blk : Block) : Response := raiseError .eTimeout blk

/-! ## The operations, under a given `CRC16_STEP` -/

/-- RXBYTE din (41_rx_framing.md R110). -/
def execRxbyteFor (f : CrcStep) (din : Byte) (s : State) : Host.Outcome State Fault Refusal :=
  s.respond (rxByte f din s.block)

/-- A command-id row (30_encoding.md R66): the byte with its class taken by the receive machine (log
entry 6). -/
def execCmdidFor (f : CrcStep) (cl : PayloadClass) (cmdnum : BitVec 5) (reply : BitVec 1)
    (s : State) : Host.Outcome State Fault Refusal :=
  s.respond (rxDispatch f cl (cmdIdByte cmdnum cl reply) s.block)

/-! ## The operations of `exec`, with the default step -/

/-- RXBYTE din (41_rx_framing.md R110). -/
def execRxbyte (din : Byte) (s : State) : Host.Outcome State Fault Refusal :=
  execRxbyteFor crc16Step din s

/-- RXTIMEOUT (41_rx_framing.md R117). -/
def execRxtimeout (s : State) : Host.Outcome State Fault Refusal :=
  s.respond (rxTimeout s.block)

/-- CMDID.LEN0 (30_encoding.md R66): the byte `nnnnn00r` taken by the receive machine (log entry 6). -/
def execCmdidLen0 (cmdnum : BitVec 5) (reply : BitVec 1) (s : State) :
    Host.Outcome State Fault Refusal :=
  execCmdidFor crc16Step .len0 cmdnum reply s

/-- CMDID.LEN2 (30_encoding.md R66): the byte `nnnnn01r`. -/
def execCmdidLen2 (cmdnum : BitVec 5) (reply : BitVec 1) (s : State) :
    Host.Outcome State Fault Refusal :=
  execCmdidFor crc16Step .len2 cmdnum reply s

/-- CMDID.LENN (30_encoding.md R66): the byte `nnnnn10r`. -/
def execCmdidLenN (cmdnum : BitVec 5) (reply : BitVec 1) (s : State) :
    Host.Outcome State Fault Refusal :=
  execCmdidFor crc16Step .lenN cmdnum reply s

/-- CMDID.BAD (30_encoding.md R66; 60_exceptions.md R161): the byte `nnnnn11r`. -/
def execCmdidBad (cmdnum : BitVec 5) (reply : BitVec 1) (s : State) :
    Host.Outcome State Fault Refusal :=
  execCmdidFor crc16Step .bad cmdnum reply s

end Sys2Proof.Machine
end

