-- ==== Sys2Proof/Machine/Dispatch.lean ====
section
/-! DEFINITION. One arm per row of spec/opcode_table.json. -/

namespace Sys2Proof.Machine

def exec (i : Instr) (s : State) : Host.Outcome State Fault Refusal :=
  match i with
  | .nop => Sys2Proof.Machine.execNop s
  | .reset => Sys2Proof.Machine.execReset s
  | .rxbyte din => Sys2Proof.Machine.execRxbyte din s
  | .rxtimeout => Sys2Proof.Machine.execRxtimeout s
  | .stRead => Sys2Proof.Machine.execStRead s
  | .stClear => Sys2Proof.Machine.execStClear s
  | .bufRead idx => Sys2Proof.Machine.execBufRead idx s
  | .crc16Seed => Sys2Proof.Machine.execCrc16Seed s
  | .crc16Step crcIn din => Sys2Proof.Machine.execCrc16Step crcIn din s
  | .reserved9 => Sys2Proof.Machine.execReserved9 s
  | .reservedA => Sys2Proof.Machine.execReservedA s
  | .reservedB => Sys2Proof.Machine.execReservedB s
  | .reservedC => Sys2Proof.Machine.execReservedC s
  | .reservedD => Sys2Proof.Machine.execReservedD s
  | .reservedE => Sys2Proof.Machine.execReservedE s
  | .reservedF => Sys2Proof.Machine.execReservedF s
  | .cmdidLen0 cmdnum reply => Sys2Proof.Machine.execCmdidLen0 cmdnum reply s
  | .cmdidLen2 cmdnum reply => Sys2Proof.Machine.execCmdidLen2 cmdnum reply s
  | .cmdidLenN cmdnum reply => Sys2Proof.Machine.execCmdidLenN cmdnum reply s
  | .cmdidBad cmdnum reply => Sys2Proof.Machine.execCmdidBad cmdnum reply s

end Sys2Proof.Machine
end

