-- ==== Sys2Proof/Machine/Fetch.lean ====
section
/-! DEFINITION. The operation port: what one input asks of the block (00_scope.md R5; 20_memory.md
R50; 70_reset_and_hazards.md R190). -/

namespace Sys2Proof.Machine

/-- What one input of the host asks of the block. -/
inductive Request
  /-- POR is asserted -/
  | powerOn
  /-- one operation, or the idle step -/
  | instr (i : Instr)
  /-- two or more operations at the same time -/
  | overlap
  deriving DecidableEq, Repr

/-- POR "overrides any operation presented with it" (70_reset_and_hazards.md R190); "`NOP` exists so
that the host does nothing is a step" (92_eei_decisions.md D5). -/
def PortInput.request (p : PortInput) : Request :=
  if p.por then .powerOn
  else match p.ops with
    | [] => .instr .nop
    | [c] => .instr (decode c)
    | _ :: _ :: _ => .overlap

/-- What the next step is asked to do: an empty port asks nothing (log entry 2). -/
def State.fetch (s : State) : Request :=
  match s.port with
  | [] => .instr .nop
  | p :: _ => p.request

/-- The state with the oldest input taken from the port. -/
def State.takeInput (s : State) : State := { s with port := s.port.tail }

/-- The state with one code presented before everything that waits at the port. -/
def State.present (s : State) (c : Code) : State :=
  { s with port := { por := false, ops := [c] } :: s.port }

/-- One step of a machine whose operations are `ex`: the oldest input of the port is taken. POR wins
over any operation presented with it; one code is decoded and executed; an idle step is NOP (log
entry 2); overlapping operations have no meaning (log entry 8). -/
def State.stepBy (ex : Instr → State → Host.Outcome State Fault Refusal) (s : State) :
    Host.Outcome State Fault Refusal :=
  match s.fetch with
  | .powerOn => .next s.takeInput.por
  | .instr i => ex i s.takeInput
  | .overlap => .refused .overlappingOperations

end Sys2Proof.Machine
end

