-- ==== Sys2Proof/Machine/Step.lean ====
section
/-! DEFINITION. One step of the machine: one input of the host taken from the operation port
(00_scope.md R5; 70_reset_and_hazards.md R190). -/

namespace Sys2Proof.Machine

/-- One step of the machine whose operations are those of `exec`. -/
def step (s : State) : Host.Outcome State Fault Refusal := s.stepBy exec

/-- `s` with a row's word presented at the operation port as the next input. A string of bits that is no
code of the block cannot be presented and leaves `s` as it is. -/
def State.withFetchWord (s : State) (nbits w : Nat) : State :=
  match tableCode nbits w with
  | .ok c => s.present c
  | .error _ => s

end Sys2Proof.Machine
end

