-- ==== Sys2Proof/Machine/Instantiation.lean ====
section
/-! DEFINITION. The machine with its OPEN parameters as arguments (00_scope.md R4; 40_crc16.md R91;
93_implementation_defined.md U1, U4): `exec`, `step`, the reset state and the core for every
`CRC16_STEP` and every strap. `exec`, `step` and `core` are the machine at the spec's default step
(log entry 3) and at strap 0 (log entry 4). -/

namespace Sys2Proof.Machine

/-- The meaning of an instruction under a given `CRC16_STEP`. Six instructions use the engine; the
others are the same for every step. -/
def execFor (f : CrcStep) (i : Instr) (s : State) : Host.Outcome State Fault Refusal :=
  match i with
  | .rxbyte din => execRxbyteFor f din s
  | .crc16Step crcIn din => execCrc16StepFor f crcIn din s
  | .cmdidLen0 cmdnum reply => execCmdidFor f .len0 cmdnum reply s
  | .cmdidLen2 cmdnum reply => execCmdidFor f .len2 cmdnum reply s
  | .cmdidLenN cmdnum reply => execCmdidFor f .lenN cmdnum reply s
  | .cmdidBad cmdnum reply => execCmdidFor f .bad cmdnum reply s
  | .nop | .reset | .rxtimeout | .stRead | .stClear | .bufRead _ | .crc16Seed
  | .reserved9 | .reservedA | .reservedB | .reservedC | .reservedD | .reservedE | .reservedF =>
    exec i s

/-- One step under a given `CRC16_STEP`. -/
def stepFor (f : CrcStep) (s : State) : Host.Outcome State Fault Refusal := s.stepBy (execFor f)

/-- The state after power-on reset with a given strap (10_state.md R21, R26). -/
def State.resetFor (strap : Bool) : State :=
  { State.reset with block := { State.reset.block with cfgPurge := strap } }

/-- The machine of a choice of the OPEN parameters. -/
def coreFor (p : Config.Parameters) : Host.Core where
  State := State
  Fault := Fault
  Refusal := Refusal
  step := stepFor p.crc16Step
  reset := State.resetFor p.purgeOnError

end Sys2Proof.Machine
end

