-- ==== Sys2Proof/Machine/Pseudo.lean ====
section
/-! DEFINITION. The pseudo-operations FRAME, CRC16.BUF, RXFRAME and RECV (30_encoding.md R76 to R79;
41_rx_framing.md R121), the run of the receive rules over a list of bytes, and the transport as
the host's loop sees it (20_memory.md R44). Each is issued on the machine of a given `CRC16_STEP`. -/

namespace Sys2Proof.Machine

/-- One operation after another: the second starts only when the first has answered a next state. -/
def andThen {α β : Type} (o : Host.Outcome α Fault Refusal)
    (k : α → Host.Outcome β Fault Refusal) : Host.Outcome β Fault Refusal :=
  match o with
  | .next a => k a
  | .fault r => .fault r
  | .refused r => .refused r

/-! ## FRAME (30_encoding.md R76) -/

/-- The bytes of a frame before the trailer, in wire order (30_encoding.md R63, R76). -/
def FrameCall.body (c : FrameCall) : List Byte :=
  [c.cmd] ++ (if payloadClass c.cmd = .lenN then [BitVec.ofNat 8 c.payload.length] else [])
    ++ [c.addr] ++ c.payload

/-- The reference serializer: `none` where its `requires` clause fails, since `FRAME` "is then undefined
and a model refuses it" (30_encoding.md R76; 93_implementation_defined.md U7). -/
def frame (f : CrcStep) (c : FrameCall) : Option (List Byte) :=
  if c.wellFormed then
    let crc := crc16Buf f (FrameCall.body c)
    some (FrameCall.body c ++ [hiByte crc, loByte crc])
  else none

/-- After how many bytes a machine in `ACMD` reaches a result other than `R_PENDING`, told from the first
byte and for the variable class the second (41_rx_framing.md R122; 30_encoding.md R64). -/
def frameEnd : List Byte → Option Nat
  | [] => none
  | b :: rest =>
    match payloadClass b with
    | .bad => some 1
    | .len0 => some 4
    | .len2 => some 6
    | .lenN =>
      match rest with
      | [] => none
      | n :: _ => some (if n.toNat ≤ Config.maxPayload then 5 + n.toNat else Config.maxPayload + 4)

/-! ## RXFRAME (30_encoding.md R78) -/

/-- The receive rules over a list of bytes, all of them taken whatever the results: the last block and
the outputs of every step. -/
def rxRun (f : CrcStep) : List Byte → Block → Block × List Outputs
  | [], blk => (blk, [])
  | b :: bs, blk =>
    let r := rxByte f b blk
    let rest := rxRun f bs r.block
    (rest.1, r.out :: rest.2)

/-- A sequence of operations on the machine, with the outputs of every step. -/
def issue (f : CrcStep) : List Instr → State → Host.Outcome (State × List Outputs) Fault Refusal
  | [], s => .next (s, [])
  | i :: is, s =>
    andThen (execFor f i s) fun t =>
      andThen (issue f is t) fun u => .next (u.1, t.out :: u.2)

/-- `RXFRAME [bytes]`: one RXBYTE per byte. -/
def rxframe (f : CrcStep) (bs : List Byte) (s : State) :
    Host.Outcome (State × List Outputs) Fault Refusal :=
  issue f (bs.map Instr.rxbyte) s

/-! ## CRC16.BUF on the machine (30_encoding.md R77) -/

/-- One CRC16.STEP per byte, each taking the `crc_out` of the one before as its `crc_in`. -/
def crc16Steps (f : CrcStep) : List Byte → State → Host.Outcome State Fault Refusal
  | [], s => .next s
  | b :: bs, s => andThen (execFor f (.crc16Step s.out.crcOut b) s) (crc16Steps f bs)

/-- `CRC16.BUF [bytes]` as its expansion into operations. -/
def crc16BufRun (f : CrcStep) (bs : List Byte) (s : State) : Host.Outcome State Fault Refusal :=
  andThen (execFor f .crc16Seed s) (crc16Steps f bs)

/-! ## The transport and RECV (20_memory.md R44; 41_rx_framing.md R121) -/

/-- The transport as the host meets it: the answers `readByte` will give (`none` is a timeout; after the
last answer it only times out) and the number of purges so far. Environment, not state of the block
(10_state.md R22; log entry 12). -/
structure Transport where
  answers : List (Option Byte)
  purges : Nat
  deriving DecidableEq, Repr

/-- `purgeReceiveBuffer()`: a prefix of the answers not yet given is removed; its length is a free draw,
"any length from 0 to all of it" (20_memory.md R44). -/
def Transport.purge (t : Transport) : Transport where
  answers := t.answers.drop (Config.purgeDraw t.purges % (t.answers.length + 1))
  purges := t.purges + 1

/-- `RECV`: RXBYTE for each byte the transport returns until a result other than `R_PENDING`, or one
RXTIMEOUT when it returns none (41_rx_framing.md R121). A step that answers `R_PENDING` requests no
purge (R110), so the purge is made where the loop returns. -/
def recvLoop (f : CrcStep) :
    List (Option Byte) → Nat → State → Host.Outcome (State × Transport) Fault Refusal
  | [], n, s => andThen (execFor f .rxtimeout s) fun t => .next (t, { answers := [], purges := n })
  | none :: rest, n, s =>
    andThen (execFor f .rxtimeout s) fun t => .next (t, { answers := rest, purges := n })
  | some b :: rest, n, s =>
    andThen (execFor f (.rxbyte b) s) fun t =>
      if t.out.result = .pending then recvLoop f rest n t
      else
        let tr : Transport := { answers := rest, purges := n }
        .next (t, if t.out.purgeReq then tr.purge else tr)

/-- `RECV` on a transport. -/
def recv (f : CrcStep) (tr : Transport) (s : State) :
    Host.Outcome (State × Transport) Fault Refusal :=
  recvLoop f tr.answers tr.purges s

/-! ## Several sessions (60_exceptions.md R175) -/

/-- One step of the k-th of several independent sessions; where there is no such session nothing is
driven (log entry 18). What sessions may draw alike is log entry 21. -/
def stepSession (f : CrcStep) (k : Nat) (ss : List State) : Host.Outcome (List State) Fault Refusal :=
  match ss[k]? with
  | none => .next ss
  | some s => andThen (stepFor f s) fun t => .next (ss.set k t)

end Sys2Proof.Machine
end

