-- ==== Sys2Proof/Safety.lean ====
section
/-! DEFINITION. What counts as a state of the hardware: the invariants of 10_state.md R25, with the
canonical form of the buffer and the model's strengthening that every byte the block may show has
been written (10_state.md R18). -/

namespace Sys2Proof.Machine

/-- Every location below `n` has been written since the last power-on reset. -/
def Memory.WrittenBelow (m : Memory) (n : Nat) : Prop := ∀ i, i < n → (m.read? i).isSome = true

/-- The invariants of 10_state.md R25, numbered as there (1 and 2 hold by the types of the fields). "a
state that breaks one is not a state of the hardware". -/
structure Block.Inv (b : Block) : Prop where
  /-- the buffer's canonical form -/
  bufWf : b.rxBuf.wf = true
  /-- 3 -/
  payBelow : b.rxState = .apay → b.rxPos.val < b.rxLen.toNat
  /-- 4 -/
  crcExact : b.rxState = .acrch ∨ b.rxState = .acrcl →
    b.rxPos.val = b.rxLen.toNat ∧ b.rxLen.toNat ≤ Config.maxPayload
  /-- 5 -/
  headZero : b.rxState = .acmd ∨ b.rxState = .asize ∨ b.rxState = .aaddr → b.rxPos.val = 0
  /-- 6 -/
  held : b.rxValid = true →
    b.rxState = .acmd ∧ b.rxPos.val = 0 ∧ b.rxLen.toNat ≤ Config.maxPayload
  /-- 7, first half -/
  fixedZero : b.rxState = .aaddr → payloadClass b.rxCmdid = .len0 → b.rxLen = 0
  /-- 7, second half -/
  fixedTwo : b.rxState = .aaddr → payloadClass b.rxCmdid = .len2 → b.rxLen = 2
  /-- 8 -/
  classKnown : b.rxState ≠ .acmd → payloadClass b.rxCmdid ≠ .bad
  /-- strengthening of 7: `ASIZE` "exists only for the variable class" (41_rx_framing.md R112) -/
  sizeClass : b.rxState = .asize → payloadClass b.rxCmdid = .lenN
  /-- 9 -/
  quiet : b.status.nodev = false ∧ b.status.bus = false ∧ b.status.param = false ∧
    b.status.len = false
  /-- every payload byte counted by `rx_pos` has been written -/
  stored : b.rxBuf.WrittenBelow b.rxPos.val
  /-- "No unspecified byte can be observed" (10_state.md R18) -/
  heldStored : b.rxValid = true → b.rxBuf.WrittenBelow b.rxLen.toNat

/-- A state of the hardware. -/
def State.Inv (s : State) : Prop := s.block.Inv

/-- The block holds a completed frame with this command id, address and payload (41_rx_framing.md
R120). -/
structure Block.HoldsFrame (b : Block) (cmd addr : Byte) (p : List Byte) : Prop where
  valid : b.rxValid = true
  idle : b.rxState = .acmd
  pos : b.rxPos.val = 0
  cmdid : b.rxCmdid = cmd
  address : b.rxAddr = addr
  length : b.rxLen.toNat = p.length
  bytes : ∀ k, (h : k < p.length) → b.rxBuf.read? k = some p[k]

/-- The byte an instruction gives to the receive machine: the operand of RXBYTE, or the byte of a
command-id row (30_encoding.md R60, R66). -/
def takenByte : Instr → Option Byte
  | .rxbyte b => some b
  | .cmdidLen0 n r => some (cmdIdByte n .len0 r)
  | .cmdidLen2 n r => some (cmdIdByte n .len2 r)
  | .cmdidLenN n r => some (cmdIdByte n .lenN r)
  | .cmdidBad n r => some (cmdIdByte n .bad r)
  | .nop | .reset | .rxtimeout | .stRead | .stClear | .bufRead _ | .crc16Seed | .crc16Step _ _
  | .reserved9 | .reservedA | .reservedB | .reservedC | .reservedD | .reservedE | .reservedF => none

/-- The results that report a framing error (60_exceptions.md R160). -/
def Result.isFramingError : Result → Bool
  | .errClass | .errOverrun | .errCrc => true
  | .ok | .pending | .complete | .timeout | .range | .badop => false

end Sys2Proof.Machine
end

