-- ==== Sys2Proof/Certificates/Slice0/Obligations.lean ====
section
/-! DEFINITION. The statements for the provers. Outputs are written out in the order `result`,
`purge_req`, `crc_out`, `dout`, `st_out` (NODEV, BUS, COMM, PARAM, LEN). A conclusion
`exec i s = .next { s with … }` says that the operation completes, what it writes, and that
everything else, the port included, stays as it is. `OpWord.ofFields op din crc_in idx` is the word
`idx ++ crc_in ++ din ++ op` of 30_encoding.md R61. `crc16Step` is the
value of the open parameter `CRC16_STEP` in `exec`, `step` and `core`; statements that take an
`f : CrcStep` hold for every value of it, those about the machine through `execFor f` and
`stepFor f`. -/

open Sys2Proof Sys2Proof.Machine

/-! ## Control, status and buffer read (42_control_status.md) -/

/-- R140: `op = 0x0` is NOP; it writes nothing and answers `R_OK`. -/
def Obligations.NopWritesNothing : Prop :=
  (∀ d c x, decodeOp (OpWord.ofFields 0x0 d c x) = .nop) ∧
  ∀ s : State, exec .nop s =
    .next { s with out := ⟨.ok, false, 0, 0, ⟨false, false, false, false, false⟩⟩ }

/-- R145: each of the seven reserved codes, and every operation word with `op` from `0x9` to `0xF`,
answers `R_BADOP` and writes nothing. -/
def Obligations.ReservedCodesAnswerBadOp : Prop :=
  (∀ (s : State) (i : Instr),
    i ∈ [Instr.reserved9, .reservedA, .reservedB, .reservedC, .reservedD, .reservedE, .reservedF] →
    exec i s =
      .next { s with out := ⟨.badop, false, 0, 0, ⟨false, false, false, false, false⟩⟩ }) ∧
  (∀ (s : State) (w : OpWord), 9 ≤ (w.extractLsb' 0 4).toNat →
    exec (decodeOp w) s =
      .next { s with out := ⟨.badop, false, 0, 0, ⟨false, false, false, false, false⟩⟩ })

/-- R141: `op = 0x1` is RESET; it writes the five registers of `SessionReset()` and nothing else. -/
def Obligations.ResetIsTheSessionReset : Prop :=
  (∀ d c x, decodeOp (OpWord.ofFields 0x1 d c x) = .reset) ∧
  ∀ s : State, exec .reset s =
    .next { s with
      block := { s.block with rxState := .acmd, rxPos := 0, rxCrc := 0, rxLen := 0,
                              rxValid := false }
      out := ⟨.ok, false, 0, 0, ⟨false, false, false, false, false⟩⟩ }

/-- R142: `op = 0x4` is ST_READ; it shows all five flags and clears none. -/
def Obligations.StReadShowsTheStatus : Prop :=
  (∀ d c x, decodeOp (OpWord.ofFields 0x4 d c x) = .stRead) ∧
  ∀ s : State, exec .stRead s = .next { s with out := ⟨.ok, false, 0, 0, s.block.status⟩ }

/-- R143: `op = 0x5` is ST_CLEAR; it clears all five flags and writes nothing else. -/
def Obligations.StClearClearsAllFiveFlags : Prop :=
  (∀ d c x, decodeOp (OpWord.ofFields 0x5 d c x) = .stClear) ∧
  ∀ s : State, exec .stClear s =
    .next { s with
      block := { s.block with status := ⟨false, false, false, false, false⟩ }
      out := ⟨.ok, false, 0, 0, ⟨false, false, false, false, false⟩⟩ }

/-- R144 (its corner case "`idx` from 120 to 127 is always refused" included): `op = 0x6` is BUF_READ; it
gives the byte of the location when a frame is held and the index is below `rx_len`, and refuses
otherwise. The byte of a location nothing has written is whatever it is (log entry 5). -/
def Obligations.BufReadGivesAHeldByteOrRange : Prop :=
  (∀ d c x, decodeOp (OpWord.ofFields 0x6 d c x) = .bufRead x) ∧
  ∀ (s : State) (idx : BitVec 7),
    (s.block.rxValid = true → idx.toNat < s.block.rxLen.toNat → idx.toNat < 120 →
      ∃ v : Byte,
        exec (.bufRead idx) s =
          .next { s with out := ⟨.ok, false, 0, v, ⟨false, false, false, false, false⟩⟩ } ∧
        ∀ w, s.block.rxBuf.read? idx.toNat = some w → v = w) ∧
    (s.block.rxValid = false ∨ s.block.rxLen.toNat ≤ idx.toNat ∨ 120 ≤ idx.toNat →
      exec (.bufRead idx) s =
        .next { s with out := ⟨.range, false, 0, 0, ⟨false, false, false, false, false⟩⟩ })

/-! ## The CRC engine (40_crc16.md) -/

/-- R95, R96: `op = 0x7` is CRC16.SEED, which shows the seed; `op = 0x8` is CRC16.STEP, which shows one
step of the engine, for every value of `CRC16_STEP`; neither touches the block. -/
def Obligations.CrcOperationsShowSeedAndStep : Prop :=
  (∀ d c x, decodeOp (OpWord.ofFields 0x7 d c x) = .crc16Seed ∧
    decodeOp (OpWord.ofFields 0x8 d c x) = .crc16Step c d) ∧
  (∀ s : State, exec .crc16Seed s =
    .next { s with
      out := ⟨.ok, false, Config.crc16Seed, 0, ⟨false, false, false, false, false⟩⟩ }) ∧
  (∀ (s : State) (c : Word) (b : Byte), exec (.crc16Step c b) s =
    .next { s with
      out := ⟨.ok, false, crc16Step c b, 0, ⟨false, false, false, false, false⟩⟩ }) ∧
  (∀ (f : CrcStep) (s : State) (c : Word) (b : Byte), execFor f (.crc16Step c b) s =
    .next { s with out := ⟨.ok, false, f c b, 0, ⟨false, false, false, false, false⟩⟩ })

/-- R94: the table form of the default step (R92, R93) is the bit-serial form, for every accumulator
and byte. Both are the spec's default from general knowledge (93_implementation_defined.md G1; log
entry 3). -/
def Obligations.DefaultStepEqualsBitSerial : Prop :=
  ∀ (c : Word) (b : Byte), crc16StepDefault c b = crc16StepSerial c b

/-- R91, R92: the default step has the two properties `P1` and `P2` (log entry 3). -/
def Obligations.DefaultStepIsInjective : Prop :=
  InjectiveInByte crc16StepDefault ∧ InjectiveInAccumulator crc16StepDefault

/-- R99: under `P1` and `P2`, two byte lists of the same length that differ in exactly one position have
different CRCs. -/
def Obligations.OnePositionChangeChangesTheCrc : Prop :=
  ∀ (f : CrcStep), InjectiveInByte f → InjectiveInAccumulator f →
    ∀ (xs : List Byte) (k : Nat) (v : Byte), k < xs.length → xs[k]? ≠ some v →
      crc16Buf f (xs.set k v) ≠ crc16Buf f xs

/-- R77: the expansion of `CRC16.BUF` into CRC16.SEED and one CRC16.STEP per byte, issued on the machine,
ends with the value of the fold on `crc_out` and leaves the block untouched. -/
def Obligations.CrcBufExpansionComputesTheFold : Prop :=
  ∀ (f : CrcStep) (bs : List Byte) (s : State), crc16BufRun f bs s =
    .next { s with
      out := ⟨.ok, false, crc16Buf f bs, 0, ⟨false, false, false, false, false⟩⟩ }

/-! ## RXBYTE state by state (41_rx_framing.md) -/

/-- R111: a command-id byte, for each of the four values of `b[2:1]`. -/
def Obligations.CommandByteIsTakenByItsClass : Prop :=
  ∀ (s : State) (b : Byte), s.block.rxState = .acmd →
    (b.extractLsb' 1 2 = 0b00#2 → exec (.rxbyte b) s =
      .next { s with
        block := { s.block with rxValid := false, rxCmdid := b, rxPos := 0,
                                rxCrc := crc16Step Config.crc16Seed b, rxLen := 0,
                                rxState := .aaddr }
        out := ⟨.pending, false, 0, 0, ⟨false, false, false, false, false⟩⟩ }) ∧
    (b.extractLsb' 1 2 = 0b01#2 → exec (.rxbyte b) s =
      .next { s with
        block := { s.block with rxValid := false, rxCmdid := b, rxPos := 0,
                                rxCrc := crc16Step Config.crc16Seed b, rxLen := 2,
                                rxState := .aaddr }
        out := ⟨.pending, false, 0, 0, ⟨false, false, false, false, false⟩⟩ }) ∧
    (b.extractLsb' 1 2 = 0b10#2 → exec (.rxbyte b) s =
      .next { s with
        block := { s.block with rxValid := false, rxCmdid := b, rxPos := 0,
                                rxCrc := crc16Step Config.crc16Seed b, rxLen := 0,
                                rxState := .asize }
        out := ⟨.pending, false, 0, 0, ⟨false, false, false, false, false⟩⟩ }) ∧
    (b.extractLsb' 1 2 = 0b11#2 → exec (.rxbyte b) s =
      .next { s with
        block := { s.block with rxState := .acmd, rxPos := 0, rxCrc := 0, rxLen := 0,
                                rxValid := false, status := { s.block.status with comm := true } }
        out := ⟨.errClass, s.block.cfgPurge, 0, 0, ⟨false, false, false, false, false⟩⟩ })

/-- R112: the length byte is taken as it is, 0 to 255. -/
def Obligations.LengthByteIsTakenAsItIs : Prop :=
  ∀ (s : State) (b : Byte), s.block.rxState = .asize → exec (.rxbyte b) s =
    .next { s with
      block := { s.block with rxLen := b, rxCrc := crc16Step s.block.rxCrc b, rxState := .aaddr }
      out := ⟨.pending, false, 0, 0, ⟨false, false, false, false, false⟩⟩ }

/-- R113: the address byte; a declared length of 0 skips the payload state. -/
def Obligations.AddressByteLeadsToPayloadOrTrailer : Prop :=
  ∀ (s : State) (b : Byte), s.block.rxState = .aaddr →
    (s.block.rxLen = 0 → exec (.rxbyte b) s =
      .next { s with
        block := { s.block with rxAddr := b, rxCrc := crc16Step s.block.rxCrc b,
                                rxState := .acrch }
        out := ⟨.pending, false, 0, 0, ⟨false, false, false, false, false⟩⟩ }) ∧
    (s.block.rxLen ≠ 0 → exec (.rxbyte b) s =
      .next { s with
        block := { s.block with rxAddr := b, rxCrc := crc16Step s.block.rxCrc b,
                                rxState := .apay }
        out := ⟨.pending, false, 0, 0, ⟨false, false, false, false, false⟩⟩ })

/-- R114, R162: a payload byte below the capacity is stored at `rx_pos` and every other location keeps
its byte; the payload byte that arrives with `rx_pos = 120` raises `E_OVERRUN` and is not stored. -/
def Obligations.PayloadByteIsStoredOrOverruns : Prop :=
  ∀ (s : State) (b : Byte), s.block.rxState = .apay →
    (s.block.rxPos.val < 120 → ∃ t : State, exec (.rxbyte b) s = .next t ∧
      t = { s with
        block := { s.block with
          rxBuf := t.block.rxBuf, rxPos := t.block.rxPos
          rxCrc := crc16Step s.block.rxCrc b
          rxState := if s.block.rxPos.val + 1 = s.block.rxLen.toNat then .acrch else .apay }
        out := ⟨.pending, false, 0, 0, ⟨false, false, false, false, false⟩⟩ } ∧
      t.block.rxPos.val = s.block.rxPos.val + 1 ∧
      t.block.rxBuf.read? s.block.rxPos.val = some b ∧
      ∀ a, a ≠ s.block.rxPos.val → t.block.rxBuf.read? a = s.block.rxBuf.read? a) ∧
    (s.block.rxPos.val = 120 → exec (.rxbyte b) s =
      .next { s with
        block := { s.block with rxState := .acmd, rxPos := 0, rxCrc := 0, rxLen := 0,
                                rxValid := false, status := { s.block.status with comm := true } }
        out := ⟨.errOverrun, s.block.cfgPurge, 0, 0, ⟨false, false, false, false, false⟩⟩ })

/-- R115: the CRC high byte is latched; `rx_crc` is not updated. -/
def Obligations.CrcHighByteIsLatched : Prop :=
  ∀ (s : State) (b : Byte), s.block.rxState = .acrch → exec (.rxbyte b) s =
    .next { s with
      block := { s.block with rxCrch := b, rxState := .acrcl }
      out := ⟨.pending, false, 0, 0, ⟨false, false, false, false, false⟩⟩ }

/-- R116, R163: the 16-bit value `rx_crch ++ b` completes the frame when it equals `rx_crc` and raises
`E_CRC` when it does not. -/
def Obligations.CrcLowByteCompletesOrMismatches : Prop :=
  ∀ (s : State) (b : Byte), s.block.rxState = .acrcl →
    ((s.block.rxCrch ++ b : Word) = s.block.rxCrc → exec (.rxbyte b) s =
      .next { s with
        block := { s.block with rxValid := true, rxState := .acmd, rxPos := 0 }
        out := ⟨.complete, false, 0, 0, ⟨false, false, false, false, false⟩⟩ }) ∧
    ((s.block.rxCrch ++ b : Word) ≠ s.block.rxCrc → exec (.rxbyte b) s =
      .next { s with
        block := { s.block with rxState := .acmd, rxPos := 0, rxCrc := 0, rxLen := 0,
                                rxValid := false, status := { s.block.status with comm := true } }
        out := ⟨.errCrc, s.block.cfgPurge, 0, 0, ⟨false, false, false, false, false⟩⟩ })

/-- R117: `op = 0x3` is RXTIMEOUT; in whatever state it resets the session, sets `COMM` and requests no
purge. -/
def Obligations.TimeoutResetsAndSetsComm : Prop :=
  (∀ d c x, decodeOp (OpWord.ofFields 0x3 d c x) = .rxtimeout) ∧
  ∀ s : State, exec .rxtimeout s =
    .next { s with
      block := { s.block with rxState := .acmd, rxPos := 0, rxCrc := 0, rxLen := 0,
                              rxValid := false, status := { s.block.status with comm := true } }
      out := ⟨.timeout, false, 0, 0, ⟨false, false, false, false, false⟩⟩ }

/-! ## The command-id rows (30_encoding.md R66) -/

/-- R66: in state `ACMD` each row of the class table sets `rx_len` and the next state it names, and
`CMDID.BAD` is the framing error `E_CLASS`. The byte is `cmdnum ++ class ++ reply` (R65). -/
def Obligations.CommandIdRowsFollowTheClassTable : Prop :=
  ∀ (s : State) (n : BitVec 5) (r : BitVec 1), s.block.rxState = .acmd →
    (exec (.cmdidLen0 n r) s =
      .next { s with
        block := { s.block with rxValid := false, rxCmdid := (n ++ 0b00#2) ++ r, rxPos := 0,
                                rxCrc := crc16Step Config.crc16Seed ((n ++ 0b00#2) ++ r),
                                rxLen := 0, rxState := .aaddr }
        out := ⟨.pending, false, 0, 0, ⟨false, false, false, false, false⟩⟩ }) ∧
    (exec (.cmdidLen2 n r) s =
      .next { s with
        block := { s.block with rxValid := false, rxCmdid := (n ++ 0b01#2) ++ r, rxPos := 0,
                                rxCrc := crc16Step Config.crc16Seed ((n ++ 0b01#2) ++ r),
                                rxLen := 2, rxState := .aaddr }
        out := ⟨.pending, false, 0, 0, ⟨false, false, false, false, false⟩⟩ }) ∧
    (exec (.cmdidLenN n r) s =
      .next { s with
        block := { s.block with rxValid := false, rxCmdid := (n ++ 0b10#2) ++ r, rxPos := 0,
                                rxCrc := crc16Step Config.crc16Seed ((n ++ 0b10#2) ++ r),
                                rxLen := 0, rxState := .asize }
        out := ⟨.pending, false, 0, 0, ⟨false, false, false, false, false⟩⟩ }) ∧
    (exec (.cmdidBad n r) s =
      .next { s with
        block := { s.block with rxState := .acmd, rxPos := 0, rxCrc := 0, rxLen := 0,
                                rxValid := false, status := { s.block.status with comm := true } }
        out := ⟨.errClass, s.block.cfgPurge, 0, 0, ⟨false, false, false, false, false⟩⟩ })

/-- The model's reading of the command-id rows (log entry 6): in every state a byte presented as a row
does what RXBYTE of that byte does. -/
def Obligations.CommandIdRowsAreReceivedBytes : Prop :=
  ∀ (b : Byte) (s : State), exec (decodeCmdId b) s = exec (.rxbyte b) s

/-! ## The error response (60_exceptions.md) -/

/-- R164: whenever an operation reports `E_CLASS`, `E_OVERRUN` or `E_CRC`, the step has done the error
response and nothing else: `purge_req` is `cfg_purge`, the session is reset, `COMM` is set, and the
latches, the buffer and the other four flags are kept. -/
def Obligations.FramingErrorResponse : Prop :=
  ∀ (i : Instr) (s t : State), exec i s = .next t →
    t.out.result ∈ [Result.errClass, .errOverrun, .errCrc] →
    t = { s with
      block := { s.block with rxState := .acmd, rxPos := 0, rxCrc := 0, rxLen := 0,
                              rxValid := false, status := { s.block.status with comm := true } }
      out := ⟨t.out.result, s.block.cfgPurge, 0, 0, ⟨false, false, false, false, false⟩⟩ }

/-- R160: the four causes, exactly under their conditions. -/
def Obligations.ErrorCausesAndTheirConditions : Prop :=
  ∀ (i : Instr) (s t : State), exec i s = .next t →
    (t.out.result = .errClass ↔
      ∃ b, takenByte i = some b ∧ s.block.rxState = .acmd ∧ b.extractLsb' 1 2 = 0b11#2) ∧
    (t.out.result = .errOverrun ↔
      ∃ b, takenByte i = some b ∧ s.block.rxState = .apay ∧ s.block.rxPos.val = 120) ∧
    (t.out.result = .errCrc ↔
      ∃ b, takenByte i = some b ∧ s.block.rxState = .acrcl ∧
        (s.block.rxCrch ++ b : Word) ≠ s.block.rxCrc) ∧
    (t.out.result = .timeout ↔ i = .rxtimeout) ∧
    (t.out.result ∈ [Result.errClass, .errOverrun, .errCrc, .timeout] →
      t.block.status.comm = true)

/-- R20, R166: only the four causes set a flag, they set only `COMM`, by OR; only ST_CLEAR clears. -/
def Obligations.StatusIsSticky : Prop :=
  ∀ (i : Instr) (s t : State), exec i s = .next t → i ≠ .stClear →
    t.block.status = { s.block.status with
      comm := s.block.status.comm ||
        decide (t.out.result ∈ [Result.errClass, .errOverrun, .errCrc, .timeout]) }

/-! ## Whole-machine rules about the registers -/

/-- R118: the transition table. In `APAY` a state of the hardware has `rx_pos < rx_len` (10_state.md
R25), so one of the three conditions holds. -/
def Obligations.TransitionTable : Prop :=
  (∀ (i : Instr) (s t : State), s.Inv → exec i s = .next t →
    match takenByte i, s.block.rxState with
    | some b, .acmd =>
        ((b.extractLsb' 1 2 = 0b00#2 ∨ b.extractLsb' 1 2 = 0b01#2) ∧
          t.block.rxState = .aaddr ∧ t.out.result = .pending) ∨
        (b.extractLsb' 1 2 = 0b10#2 ∧ t.block.rxState = .asize ∧ t.out.result = .pending) ∨
        (b.extractLsb' 1 2 = 0b11#2 ∧ t.block.rxState = .acmd ∧ t.out.result = .errClass)
    | some _, .asize => t.block.rxState = .aaddr ∧ t.out.result = .pending
    | some _, .aaddr =>
        (s.block.rxLen = 0 ∧ t.block.rxState = .acrch ∧ t.out.result = .pending) ∨
        (s.block.rxLen ≠ 0 ∧ t.block.rxState = .apay ∧ t.out.result = .pending)
    | some _, .apay =>
        (s.block.rxPos.val = 120 ∧ t.block.rxState = .acmd ∧ t.out.result = .errOverrun) ∨
        (s.block.rxPos.val < 120 ∧ s.block.rxPos.val + 1 = s.block.rxLen.toNat ∧
          t.block.rxState = .acrch ∧ t.out.result = .pending) ∨
        (s.block.rxPos.val < 120 ∧ s.block.rxPos.val + 1 < s.block.rxLen.toNat ∧
          t.block.rxState = .apay ∧ t.out.result = .pending)
    | some _, .acrch => t.block.rxState = .acrcl ∧ t.out.result = .pending
    | some b, .acrcl =>
        ((s.block.rxCrch ++ b : Word) = s.block.rxCrc ∧ t.block.rxState = .acmd ∧
          t.out.result = .complete) ∨
        ((s.block.rxCrch ++ b : Word) ≠ s.block.rxCrc ∧ t.block.rxState = .acmd ∧
          t.out.result = .errCrc)
    | none, _ =>
        (i = .rxtimeout ∧ t.block.rxState = .acmd ∧ t.out.result = .timeout) ∨
        (i = .reset ∧ t.block.rxState = .acmd ∧ t.out.result = .ok) ∨
        (i ≠ .rxtimeout ∧ i ≠ .reset ∧ t.block.rxState = s.block.rxState)) ∧
  (∀ (s t : State) (p : PortInput) (rest : List PortInput), s.port = p :: rest → p.por = true →
    step s = .next t → t.block.rxState = .acmd)

/-- R19: `rx_valid` is set by a completion and nothing else, kept by the operations that receive nothing,
and cleared by every other one. -/
def Obligations.ValidOnlyAfterACompletion : Prop :=
  ∀ (i : Instr) (s t : State), s.Inv → exec i s = .next t →
    (t.block.rxValid = true ↔
      t.out.result = .complete ∨
      (s.block.rxValid = true ∧ takenByte i = none ∧ i ≠ .reset ∧ i ≠ .rxtimeout))

/-- R14, R15, R17: the three latches take a byte only in their own state, `rx_cmdid` only for a
recognized class, and keep it otherwise. -/
def Obligations.LatchesTakeTheirOwnByteOnly : Prop :=
  ∀ (i : Instr) (s t : State), exec i s = .next t →
    (∀ b, takenByte i = some b → s.block.rxState = .acmd → b.extractLsb' 1 2 ≠ 0b11#2 →
      t.block.rxCmdid = b) ∧
    ((∀ b, takenByte i = some b → s.block.rxState = .acmd → b.extractLsb' 1 2 = 0b11#2) →
      t.block.rxCmdid = s.block.rxCmdid) ∧
    (∀ b, takenByte i = some b → s.block.rxState = .aaddr → t.block.rxAddr = b) ∧
    (takenByte i = none ∨ s.block.rxState ≠ .aaddr → t.block.rxAddr = s.block.rxAddr) ∧
    (∀ b, takenByte i = some b → s.block.rxState = .acrch → t.block.rxCrch = b) ∧
    (takenByte i = none ∨ s.block.rxState ≠ .acrch → t.block.rxCrch = s.block.rxCrch)

/-- R16: every change of `rx_len`. -/
def Obligations.LengthIsWrittenByHeaderBytesAndResets : Prop :=
  ∀ (i : Instr) (s t : State), exec i s = .next t →
    (i = .reset ∨ t.out.result ∈ [Result.errClass, .errOverrun, .errCrc, .timeout] →
      t.block.rxLen = 0) ∧
    (∀ b, takenByte i = some b → s.block.rxState = .acmd → b.extractLsb' 1 2 ≠ 0b01#2 →
      t.block.rxLen = 0) ∧
    (∀ b, takenByte i = some b → s.block.rxState = .acmd → b.extractLsb' 1 2 = 0b01#2 →
      t.block.rxLen = 2) ∧
    (∀ b, takenByte i = some b → s.block.rxState = .asize → t.block.rxLen = b) ∧
    (i ≠ .reset → t.out.result ∉ [Result.errClass, .errOverrun, .errCrc, .timeout] →
      (takenByte i = none ∨ s.block.rxState ∉ [RxState.acmd, .asize]) →
      t.block.rxLen = s.block.rxLen)

/-- R18, R41: the buffer's frame. Only a byte taken in `APAY` below the capacity stores, only at
`rx_pos`, and only that byte; every other location reads as before. -/
def Obligations.OnlyPayloadBytesReachTheBuffer : Prop :=
  ∀ (i : Instr) (s t : State), exec i s = .next t →
    (∀ b, takenByte i = some b → s.block.rxState = .apay → s.block.rxPos.val < 120 →
      t.block.rxBuf.read? s.block.rxPos.val = some b ∧
      ∀ a, a ≠ s.block.rxPos.val → t.block.rxBuf.read? a = s.block.rxBuf.read? a) ∧
    (takenByte i = none ∨ s.block.rxState ≠ .apay ∨ s.block.rxPos.val = 120 →
      ∀ a, t.block.rxBuf.read? a = s.block.rxBuf.read? a)

/-- R21: `cfg_purge` is "not changed by any operation or reset", POR and idle steps included. -/
def Obligations.PurgeStrapNeverChanges : Prop :=
  ∀ s t : State, step s = .next t → t.block.cfgPurge = s.block.cfgPurge

/-! ## Outputs (10_state.md R23, R24) -/

/-- R24: the pulse outputs are 0 in every step that does not drive them. -/
def Obligations.PulseOutputsAreZeroUnlessDriven : Prop :=
  ∀ (i : Instr) (s t : State), exec i s = .next t →
    (t.out.purgeReq = true ↔
      t.out.result ∈ [Result.errClass, .errOverrun, .errCrc] ∧ s.block.cfgPurge = true) ∧
    ((i ≠ .crc16Seed ∧ ∀ c b, i ≠ .crc16Step c b) → t.out.crcOut = 0) ∧
    (((∀ k, i ≠ .bufRead k) ∨ t.out.result = .range) → t.out.dout = 0) ∧
    (i ≠ .stRead → t.out.stOut = ⟨false, false, false, false, false⟩)

/-- R23: which operation produces which result. -/
def Obligations.ResultsAreThoseOfTheTable : Prop :=
  ∀ (i : Instr) (s t : State), exec i s = .next t →
    match i with
    | .nop | .reset | .stRead | .stClear | .crc16Seed | .crc16Step _ _ => t.out.result = .ok
    | .bufRead _ => t.out.result = .ok ∨ t.out.result = .range
    | .rxtimeout => t.out.result = .timeout
    | .reserved9 | .reservedA | .reservedB | .reservedC | .reservedD | .reservedE
    | .reservedF => t.out.result = .badop
    | .rxbyte _ | .cmdidLen0 _ _ | .cmdidLen2 _ _ | .cmdidLenN _ _ | .cmdidBad _ _ =>
        t.out.result ∈ [Result.pending, .complete, .errClass, .errOverrun, .errCrc]

/-- R23: the outputs of the last step "is not state: no rule reads it". Two machines with the same block
(and the same power cycle) answer the same block and the same outputs, whatever their outputs and
ports held. -/
def Obligations.OutputsAndPortAreNotRead : Prop :=
  ∀ (i : Instr) (s s' t t' : State), s.block = s'.block → s.powerCycles = s'.powerCycles →
    exec i s = .next t → exec i s' = .next t' → t.block = t'.block ∧ t.out = t'.out

/-- R53: how a byte is decoded never depends on what the buffer holds: two machines that differ in the
buffer only answer the same outputs and the same registers. -/
def Obligations.DecodingIgnoresTheBuffer : Prop :=
  ∀ (b : Byte) (s s' t t' : State), s.block = { s'.block with rxBuf := s.block.rxBuf } →
    exec (.rxbyte b) s = .next t → exec (.rxbyte b) s' = .next t' →
    t.block = { t'.block with rxBuf := t.block.rxBuf } ∧ t.out = t'.out

/-! ## Steps, power-on reset, the operation port -/

/-- The model's choice (log entries 2 and 16): the port is a list, and a step takes its first input. With
one code there, a step runs the operation decoded from it, with that input taken from the port; and
the word of a table row, presented by `withFetchWord`, is run as the very next step. After
00_scope.md R5: "a step of the model is one accepted operation". -/
def Obligations.StepRunsTheDecodedOperation : Prop :=
  (∀ (s : State) (c : Code) (rest : List PortInput), s.port = { por := false, ops := [c] } :: rest →
    step s = exec (decode c) { s with port := rest }) ∧
  (∀ (s : State) (nbits w : Nat) (i : Instr), decodeTableWord nbits w = some i →
    step (s.withFetchWord nbits w) = exec i s)

/-- The model's choice (log entry 2), after 92_eei_decisions.md D5: a step in which the host presents
nothing is NOP. -/
def Obligations.IdleStepIsNop : Prop :=
  (∀ s : State, s.port = [] → step s = exec .nop s) ∧
  (∀ (s : State) (rest : List PortInput), s.port = { por := false, ops := [] } :: rest →
    step s = exec .nop { s with port := rest })

/-- R190: POR wins over whatever is presented with it; the registers and outputs take their values after
power-on, the strap keeps its own, and the buffer is left unspecified. -/
def Obligations.PowerOnResetOverridesOperations : Prop :=
  ∀ (s : State) (p : PortInput) (rest : List PortInput), s.port = p :: rest → p.por = true →
    ∃ t : State, step s = .next t ∧
      t.block =
        { rxState := .acmd, rxPos := 0, rxCrc := 0x0000, rxCmdid := 0x00, rxAddr := 0x00, rxLen := 0,
          rxCrch := 0x00, rxBuf := t.block.rxBuf, rxValid := false,
          status := ⟨false, false, false, false, false⟩, cfgPurge := s.block.cfgPurge } ∧
      t.out = ⟨.ok, false, 0, 0, ⟨false, false, false, false, false⟩⟩

/-- R26, R190: the reset state has the values of the table; the strap and the buffer are left open. -/
def Obligations.ResetStateHasPowerOnValues : Prop :=
  State.reset.block =
    { rxState := .acmd, rxPos := 0, rxCrc := 0x0000, rxCmdid := 0x00, rxAddr := 0x00, rxLen := 0,
      rxCrch := 0x00, rxBuf := State.reset.block.rxBuf, rxValid := false,
      status := ⟨false, false, false, false, false⟩, cfgPurge := State.reset.block.cfgPurge } ∧
  State.reset.out = ⟨.ok, false, 0, 0, ⟨false, false, false, false, false⟩⟩

/-- R50, 93_implementation_defined.md U6: two or more operations presented at the same time have no
meaning and are refused; nothing else ever stops a step. -/
def Obligations.OnlyOverlappingOperationsStop : Prop :=
  ∀ s : State,
    ((∃ r, step s = .refused r) ↔
      ∃ p rest, s.port = p :: rest ∧ p.por = false ∧ 2 ≤ p.ops.length) ∧
    (∀ r, step s = .refused r → r = .overlappingOperations) ∧
    (∀ r, step s ≠ .fault r)

/-! ## Invariants (10_state.md R25) -/

/-- R25: every step, whatever the host presents, keeps the invariants, for every `CRC16_STEP`. -/
def Obligations.EveryStepKeepsTheInvariants : Prop :=
  (∀ s t : State, s.Inv → step s = .next t → t.Inv) ∧
  (∀ (f : CrcStep) (s t : State), s.Inv → stepFor f s = .next t → t.Inv)

/-- R25: the state after reset meets the invariants. -/
def Obligations.ResetMeetsTheInvariants : Prop := State.reset.Inv

/-- R18: "No unspecified byte can be observed": in a state of the hardware, a BUF_READ that gives data
gives a byte that was written. -/
def Obligations.NoUnwrittenByteIsObserved : Prop :=
  ∀ (s t : State) (idx : BitVec 7), s.Inv → exec (.bufRead idx) s = .next t →
    t.out.result = .ok → s.block.rxBuf.read? idx.toNat = some t.out.dout

/-! ## Encoding (30_encoding.md) -/

/-- R61, R65: decoding an encoded instruction gives it back, with every operand at every value; and each
byte has exactly one command-id row. -/
def Obligations.DecodeOfEncodeIsIdentity : Prop :=
  (∀ i : Instr, decode (encode i) = i) ∧
  (∀ b : Byte, encode (decode (.cmdId b)) = .cmdId b)

/-- R61: the operation of each code, with its operands read from their bits. -/
def Obligations.OperationCodesSelectTheirOperation : Prop :=
  ∀ w : OpWord,
    (w.extractLsb' 0 4 = 0x0#4 → decodeOp w = .nop) ∧
    (w.extractLsb' 0 4 = 0x1#4 → decodeOp w = .reset) ∧
    (w.extractLsb' 0 4 = 0x2#4 → decodeOp w = .rxbyte (w.extractLsb' 4 8)) ∧
    (w.extractLsb' 0 4 = 0x3#4 → decodeOp w = .rxtimeout) ∧
    (w.extractLsb' 0 4 = 0x4#4 → decodeOp w = .stRead) ∧
    (w.extractLsb' 0 4 = 0x5#4 → decodeOp w = .stClear) ∧
    (w.extractLsb' 0 4 = 0x6#4 → decodeOp w = .bufRead (w.extractLsb' 28 7)) ∧
    (w.extractLsb' 0 4 = 0x7#4 → decodeOp w = .crc16Seed) ∧
    (w.extractLsb' 0 4 = 0x8#4 →
      decodeOp w = .crc16Step (w.extractLsb' 12 16) (w.extractLsb' 4 8)) ∧
    (w.extractLsb' 0 4 = 0x9#4 → decodeOp w = .reserved9) ∧
    (w.extractLsb' 0 4 = 0xA#4 → decodeOp w = .reservedA) ∧
    (w.extractLsb' 0 4 = 0xB#4 → decodeOp w = .reservedB) ∧
    (w.extractLsb' 0 4 = 0xC#4 → decodeOp w = .reservedC) ∧
    (w.extractLsb' 0 4 = 0xD#4 → decodeOp w = .reservedD) ∧
    (w.extractLsb' 0 4 = 0xE#4 → decodeOp w = .reservedE) ∧
    (w.extractLsb' 0 4 = 0xF#4 → decodeOp w = .reservedF)

/-- spec/opcode_table.json: every code fits exactly one row of the table, the one with the mnemonic of
the instruction it decodes to: some row fits, a row fits only by that mnemonic, and no two rows
share a mnemonic. -/
def Obligations.EveryCodeFitsExactlyItsRow : Prop :=
  (∀ c : Code, ∃ row ∈ opcodeTable, row.fits c = true) ∧
  (∀ (c : Code) (row : OpcodeRow), row ∈ opcodeTable →
    (row.fits c = true ↔ row.mnemonic = (decode c).mnemonic)) ∧
  (opcodeTable.map OpcodeRow.mnemonic).Nodup

/-- R62: a field an operation does not use is ignored. For each code, two words that agree on `op` and on
the fields of its row decode to the same instruction. -/
def Obligations.UnusedFieldsAreIgnored : Prop :=
  ∀ v w : OpWord, v.extractLsb' 0 4 = w.extractLsb' 0 4 →
    (v.extractLsb' 0 4 = 0x2#4 ∨ v.extractLsb' 0 4 = 0x8#4 →
      v.extractLsb' 4 8 = w.extractLsb' 4 8) →
    (v.extractLsb' 0 4 = 0x8#4 → v.extractLsb' 12 16 = w.extractLsb' 12 16) →
    (v.extractLsb' 0 4 = 0x6#4 → v.extractLsb' 28 7 = w.extractLsb' 28 7) →
    decodeOp v = decodeOp w

/-- R75: the three words the rule writes out, and one byte of each command-id row. -/
def Obligations.WrittenWordsDecode : Prop :=
  decodeTableWord 40 0x000000042 = some (.rxbyte 0x04) ∧
  decodeTableWord 40 0x030000006 = some (.bufRead 3) ∧
  decodeTableWord 40 0x00FFFF318 = some (.crc16Step 0xFFFF 0x31) ∧
  decodeTableWord 8 0x01 = some (.cmdidLen0 0 1) ∧
  decodeTableWord 8 0xFB = some (.cmdidLen2 31 1) ∧
  decodeTableWord 8 0x2D = some (.cmdidLenN 5 1) ∧
  decodeTableWord 8 0xFE = some (.cmdidBad 31 0)

/-- R64, R76: the serializer is defined exactly under its `requires` clause, and the frame it builds has
the layout and the length the class gives it. -/
def Obligations.FrameLayoutAndLength : Prop :=
  ∀ (f : CrcStep) (c : FrameCall),
    (frame f c = none ↔
      ¬ ((c.cmd.extractLsb' 1 2 = 0b00#2 ∧ c.payload.length = 0) ∨
         (c.cmd.extractLsb' 1 2 = 0b01#2 ∧ c.payload.length = 2) ∨
         (c.cmd.extractLsb' 1 2 = 0b10#2 ∧ c.payload.length ≤ 120))) ∧
    (∀ bs, frame f c = some bs →
      (c.cmd.extractLsb' 1 2 ≠ 0b10#2 →
        ∃ crc : Word, crc = crc16Buf f ([c.cmd, c.addr] ++ c.payload) ∧
          bs = [c.cmd, c.addr] ++ c.payload ++ [crc.extractLsb' 8 8, crc.extractLsb' 0 8] ∧
          bs.length = 1 + 1 + c.payload.length + 2) ∧
      (c.cmd.extractLsb' 1 2 = 0b10#2 →
        ∃ (crc : Word) (n : Byte), n.toNat = c.payload.length ∧
          crc = crc16Buf f ([c.cmd, n, c.addr] ++ c.payload) ∧
          bs = [c.cmd, n, c.addr] ++ c.payload ++ [crc.extractLsb' 8 8, crc.extractLsb' 0 8] ∧
          bs.length = 1 + 1 + 1 + c.payload.length + 2))

/-! ## Runs over bytes (41_rx_framing.md, section 5) -/

/-- R78: on the machine of every `CRC16_STEP`, `RXFRAME` takes every byte by the rules of the receive machine, whatever the
results. -/
def Obligations.RxframeRunsTheReceiveRules : Prop :=
  ∀ (f : CrcStep) (bs : List Byte) (s : State), ∃ t : State,
    rxframe f bs s = .next (t, (rxRun f bs s.block).2) ∧
    t.block = (rxRun f bs s.block).1 ∧ t.port = s.port ∧ t.powerCycles = s.powerCycles

/-- R119: while a frame is pending, `rx_crc` is `CRC16.BUF` of the bytes decoded in `ACMD`, `ASIZE`,
`AADDR` or `APAY`: all of them, but for the last when it was decoded in `ACRCH`. -/
def Obligations.RunningCrcTracksTheFrame : Prop :=
  ∀ (f : CrcStep) (blk : Block) (xs : List Byte), blk.rxState = .acmd → xs ≠ [] →
    (∀ o ∈ (rxRun f xs blk).2, o.result = .pending) →
    (rxRun f xs blk).1.rxState ≠ .acmd ∧
    (rxRun f xs blk).1.rxCrc =
      crc16Buf f (if (rxRun f xs blk).1.rxState = .acrcl then xs.dropLast else xs)

/-- R122: where a frame ends. From `ACMD`, the first result other than `R_PENDING` comes after exactly
the number of bytes the first byte (and the length byte) give: 1, 4, 6, `5 + N`, or 124. -/
def Obligations.FrameEndsWhereTheHeaderSays : Prop :=
  ∀ (f : CrcStep) (blk : Block) (bs : List Byte) (n : Nat), blk.rxState = .acmd →
    frameEnd bs = some n → n ≤ bs.length →
    (∀ k, k + 1 < n → ((rxRun f bs blk).2[k]?).map Outputs.result = some .pending) ∧
    (∃ o, (rxRun f bs blk).2[n - 1]? = some o ∧ o.result ≠ .pending ∧
      (o.result = .errClass ↔ n = 1) ∧ (o.result = .errOverrun ↔ ∃ b l rest, bs = b :: l :: rest ∧
        b.extractLsb' 1 2 = 0b10#2 ∧ 120 < l.toNat)) ∧
    (rxRun f (bs.take n) blk).1.rxState = .acmd

/-- R123 (a): round trip, for every instantiation of `CRC16_STEP`. A well-formed frame taken in `ACMD`
answers `R_PENDING` for every byte but the last and `R_COMPLETE` for the last; the block then holds
the frame, the status is unchanged and no purge was requested. -/
def Obligations.WellFormedFrameIsReceived : Prop :=
  ∀ (f : CrcStep) (c : FrameCall) (bs : List Byte) (blk : Block), frame f c = some bs →
    blk.rxState = .acmd →
    (rxRun f bs blk).2.map Outputs.result = List.replicate (bs.length - 1) .pending ++ [.complete] ∧
    (∀ o ∈ (rxRun f bs blk).2, o.purgeReq = false) ∧
    (rxRun f bs blk).1.HoldsFrame c.cmd c.addr c.payload ∧
    (rxRun f bs blk).1.status = blk.status

/-- R123 (b): one byte of a well-formed frame replaced by another, the class bits and the length byte
left alone: the last byte answers `R_ERR_CRC`. A change outside the two trailer bytes needs `P1` and
`P2`. -/
def Obligations.CorruptedFrameIsRejected : Prop :=
  ∀ (f : CrcStep) (c : FrameCall) (bs : List Byte) (blk : Block) (k : Nat) (v : Byte),
    frame f c = some bs → blk.rxState = .acmd → k < bs.length → bs[k]? ≠ some v →
    (k = 0 → v.extractLsb' 1 2 = c.cmd.extractLsb' 1 2) →
    (c.cmd.extractLsb' 1 2 = 0b10#2 → k ≠ 1) →
    (k + 2 < bs.length → InjectiveInByte f ∧ InjectiveInAccumulator f) →
    (rxRun f (bs.set k v) blk).2.map Outputs.result =
      List.replicate (bs.length - 1) .pending ++ [.errCrc]

/-- R120: a completion hands a whole frame to the consumer; the operations that receive nothing keep it;
BUF_READ gives its bytes and refuses past its end. -/
def Obligations.HeldFrameCanBeRead : Prop :=
  (∀ (i : Instr) (s t : State), s.Inv → exec i s = .next t → t.out.result = .complete →
    ∃ p : List Byte, p.length ≤ 120 ∧
      t.block.HoldsFrame s.block.rxCmdid s.block.rxAddr p) ∧
  (∀ (i : Instr) (s t : State) (cmd addr : Byte) (p : List Byte),
    s.block.HoldsFrame cmd addr p → takenByte i = none → i ≠ .reset → i ≠ .rxtimeout →
    exec i s = .next t → t.block.HoldsFrame cmd addr p) ∧
  (∀ (s : State) (cmd addr : Byte) (p : List Byte) (idx : BitVec 7),
    s.block.HoldsFrame cmd addr p → p.length ≤ 120 →
    (∀ h : idx.toNat < p.length, exec (.bufRead idx) s =
      .next { s with
        out := ⟨.ok, false, 0, p[idx.toNat], ⟨false, false, false, false, false⟩⟩ }) ∧
    (p.length ≤ idx.toNat → exec (.bufRead idx) s =
      .next { s with out := ⟨.range, false, 0, 0, ⟨false, false, false, false, false⟩⟩ }))

/-- R121: `RECV` ends with one of five results, in `ACMD` with `rx_pos = 0`; from `ACMD`, when the
transport's next 125 answers are bytes, it does not end in a timeout. -/
def Obligations.ReceiveLoopEnds : Prop :=
  ∀ (f : CrcStep) (tr : Transport) (s : State), ∃ (t : State) (tr' : Transport), recv f tr s = .next (t, tr') ∧
    t.out.result ∈ [Result.complete, .errClass, .errOverrun, .errCrc, .timeout] ∧
    t.block.rxState = .acmd ∧ t.block.rxPos.val = 0 ∧
    (s.block.rxState = .acmd →
      (∀ k, k < 125 → ∃ b, tr.answers[k]? = some (some b)) → t.out.result ≠ .timeout)

/-- R175: sessions are independent: a step of one leaves every other as it is, and steps of two commute.
That sessions are a list is the model's choice (log entry 18). -/
def Obligations.SessionsAreIndependent : Prop :=
  (∀ (f : CrcStep) (ss ss' : List State) (j k : Nat), j ≠ k →
    stepSession f k ss = .next ss' → ss'[j]? = ss[j]?) ∧
  (∀ (f : CrcStep) (ss : List State) (j k : Nat) (s u s' u' : State), j ≠ k →
    ss[k]? = some s → ss[j]? = some u → stepFor f s = .next s' → stepFor f u = .next u' →
    andThen (stepSession f k ss) (stepSession f j) = .next ((ss.set k s').set j u') ∧
    andThen (stepSession f j ss) (stepSession f k) = .next ((ss.set k s').set j u'))

/-! ## The open parameters (00_scope.md R4; 40_crc16.md R91) -/

/-- `core` is the machine of the spec's default step and of strap 0; both values are the model's choice
(log entries 3 and 4). -/
def Obligations.CoreIsTheMachineOfTheDefaults : Prop :=
  Sys2Proof.core = coreFor { crc16Step := crc16Step, purgeOnError := Config.purgeOnError }

/-- R4, R91: the machine takes `CRC16_STEP` as an argument. Two values of it give the same next state but
for `rx_crc`, and that only when a byte is taken, and for `crc_out`, and that only in CRC16.STEP. -/
def Obligations.CrcStepShowsOnlyInCrcValues : Prop :=
  ∀ (f g : CrcStep) (i : Instr) (s : State), ∃ t u : State,
    execFor f i s = .next t ∧ execFor g i s = .next u ∧
    u = { t with block := { t.block with rxCrc := u.block.rxCrc }
                 out := { t.out with crcOut := u.out.crcOut } } ∧
    (takenByte i = none → u.block.rxCrc = t.block.rxCrc) ∧
    ((∀ c b, i ≠ .crc16Step c b) → u.out.crcOut = t.out.crcOut)

/-- The model's choice (log entries 13 and 5): POR is one step that takes one input of the port; the
inputs behind it stay, and a new power cycle begins for the free values of the buffer. -/
def Obligations.PowerOnResetTakesOneInput : Prop :=
  ∀ (s : State) (p : PortInput) (rest : List PortInput), s.port = p :: rest → p.por = true →
    ∃ t : State, step s = .next t ∧ t.port = rest ∧ t.powerCycles = s.powerCycles + 1
end

