-- ==== Sys2Proof/Laws/Crc.lean ====
section
/-! SUPPORT. The table of the default step, the two halves of a word, and the fold of `CRC16.BUF`
(40_crc16.md R92 to R94, R98). -/

namespace Sys2Proof.Machine

/-- A table entry is the bit-serial form of its index (40_crc16.md R94). -/
theorem rom_eq_serial : ∀ i : Byte, rom i = swapBytes (serialBits 8 (i.setWidth 16)) := by
  decide +kernel

/-- "The 256 low bytes `T_LO[i]` are pairwise different" (40_crc16.md R92). -/
theorem loByte_rom_injective : ∀ i j : Byte, loByte (rom i) = loByte (rom j) → i = j := by
  decide +kernel

/-- The new low byte comes from the table alone (40_crc16.md R92: `lo = T_LO[i]`). -/
theorem loByte_crc16StepDefault (c : Word) (b : Byte) :
    loByte (crc16StepDefault c b) = loByte (rom (hiByte c ^^^ b)) := by
  unfold crc16StepDefault loByte
  generalize rom _ = r
  ext i hi
  have h : i < 8 := hi
  simp [h]

/-- A word is its two bytes, the high one first (20_memory.md R45). -/
theorem hiByte_append_loByte (c : Word) : hiByte c ++ loByte c = c := by
  apply BitVec.eq_of_toNat_eq
  have h := c.isLt
  simp only [hiByte, loByte, BitVec.toNat_append, BitVec.extractLsb'_toNat,
    Nat.shiftRight_eq_div_pow]
  rw [Nat.shiftLeft_eq, ← Nat.shiftLeft_eq, ← Nat.shiftLeft_add_eq_or_of_lt (by omega),
    Nat.shiftLeft_eq]
  omega

@[simp] theorem crc16Buf_nil (f : CrcStep) : crc16Buf f [] = Config.crc16Seed := rfl

/-- Incrementality (40_crc16.md R98). -/
@[simp] theorem crc16Buf_append (f : CrcStep) (xs ys : List Byte) :
    crc16Buf f (xs ++ ys) = ys.foldl f (crc16Buf f xs) := by simp [crc16Buf, List.foldl_append]

end Sys2Proof.Machine
end

