-- ==== Sys2Proof/Laws/Encoding.lean ====
section
/-! SUPPORT. The fields of an operation word and of a command-id byte, read back from their
concatenation (30_encoding.md R61, R65). -/

namespace Sys2Proof

section
variable (op : BitVec 4) (din : Byte) (crcIn : Word) (idx : BitVec 7)

theorem OpWord.toNat_ofFields : (OpWord.ofFields op din crcIn idx).toNat =
    ((idx.toNat * 65536 + crcIn.toNat) * 256 + din.toNat) * 16 + op.toNat := by
  have h0 := op.isLt
  have h1 := din.isLt
  have h2 := crcIn.isLt
  simp only [OpWord.ofFields, BitVec.toNat_append]
  rw [← Nat.shiftLeft_add_eq_or_of_lt h2, ← Nat.shiftLeft_add_eq_or_of_lt h1,
    ← Nat.shiftLeft_add_eq_or_of_lt h0]
  simp only [Nat.shiftLeft_eq]

@[simp] theorem OpWord.op_ofFields : (OpWord.ofFields op din crcIn idx).op = op := by
  apply BitVec.eq_of_toNat_eq
  simp only [OpWord.op, BitVec.extractLsb'_toNat, OpWord.toNat_ofFields, Nat.shiftRight_eq_div_pow]
  have h0 := op.isLt
  omega

@[simp] theorem OpWord.din_ofFields : (OpWord.ofFields op din crcIn idx).din = din := by
  apply BitVec.eq_of_toNat_eq
  simp only [OpWord.din, BitVec.extractLsb'_toNat, OpWord.toNat_ofFields,
    Nat.shiftRight_eq_div_pow]
  have h0 := op.isLt
  have h1 := din.isLt
  omega

@[simp] theorem OpWord.crcIn_ofFields : (OpWord.ofFields op din crcIn idx).crcIn = crcIn := by
  apply BitVec.eq_of_toNat_eq
  simp only [OpWord.crcIn, BitVec.extractLsb'_toNat, OpWord.toNat_ofFields,
    Nat.shiftRight_eq_div_pow]
  have h0 := op.isLt
  have h1 := din.isLt
  have h2 := crcIn.isLt
  omega

@[simp] theorem OpWord.idx_ofFields : (OpWord.ofFields op din crcIn idx).idx = idx := by
  apply BitVec.eq_of_toNat_eq
  simp only [OpWord.idx, BitVec.extractLsb'_toNat, OpWord.toNat_ofFields,
    Nat.shiftRight_eq_div_pow]
  have h0 := op.isLt
  have h1 := din.isLt
  have h2 := crcIn.isLt
  have h3 := idx.isLt
  omega

/-- The mask of format `OP` keeps the operation code. -/
theorem OpWord.mask_eq_op (w : OpWord) : w &&& (0x00000000F : OpWord) = (w.op).setWidth 35 := by
  apply BitVec.eq_of_toNat_eq
  have h : BitVec.toNat (0x00000000F : OpWord) = 2 ^ 4 - 1 := rfl
  simp only [OpWord.op, BitVec.toNat_and, BitVec.toNat_setWidth,
    BitVec.extractLsb'_toNat, Nat.shiftRight_zero]
  rw [h, Nat.and_two_pow_sub_one_eq_mod]
  omega

end

section
variable (n : BitVec 5) (cl : PayloadClass) (r : BitVec 1)

theorem toNat_cmdIdByte :
    (cmdIdByte n cl r).toNat = (n.toNat * 4 + cl.bits.toNat) * 2 + r.toNat := by
  have h0 := r.isLt
  have h1 := cl.bits.isLt
  simp only [cmdIdByte, BitVec.toNat_append]
  rw [← Nat.shiftLeft_add_eq_or_of_lt h1, ← Nat.shiftLeft_add_eq_or_of_lt h0]
  simp only [Nat.shiftLeft_eq]

@[simp] theorem cmdNum_cmdIdByte : cmdNum (cmdIdByte n cl r) = n := by
  apply BitVec.eq_of_toNat_eq
  simp only [cmdNum, BitVec.extractLsb'_toNat, toNat_cmdIdByte, Nat.shiftRight_eq_div_pow]
  have h0 := r.isLt
  have h1 := cl.bits.isLt
  have h2 := n.isLt
  omega

@[simp] theorem replyBit_cmdIdByte : replyBit (cmdIdByte n cl r) = r := by
  apply BitVec.eq_of_toNat_eq
  simp only [replyBit, BitVec.extractLsb'_toNat, toNat_cmdIdByte, Nat.shiftRight_eq_div_pow]
  have h0 := r.isLt
  omega

theorem classBits_cmdIdByte : (cmdIdByte n cl r).extractLsb' 1 2 = cl.bits := by
  apply BitVec.eq_of_toNat_eq
  simp only [BitVec.extractLsb'_toNat, toNat_cmdIdByte, Nat.shiftRight_eq_div_pow]
  have h0 := r.isLt
  have h1 := cl.bits.isLt
  omega

@[simp] theorem payloadClass_cmdIdByte : payloadClass (cmdIdByte n cl r) = cl := by
  unfold payloadClass
  rw [classBits_cmdIdByte]
  cases cl <;> rfl

end

/-- The sixteen operation codes. -/
theorem OpWord.op_cases (w : OpWord) :
    w.op = 0x0 ∨ w.op = 0x1 ∨ w.op = 0x2 ∨ w.op = 0x3 ∨ w.op = 0x4 ∨ w.op = 0x5 ∨ w.op = 0x6 ∨
    w.op = 0x7 ∨ w.op = 0x8 ∨ w.op = 0x9 ∨ w.op = 0xA ∨ w.op = 0xB ∨ w.op = 0xC ∨ w.op = 0xD ∨
    w.op = 0xE ∨ w.op = 0xF := by
  generalize w.op = x
  revert x
  decide

/-- A word fits a row of format `OP` exactly when it has the row's code. -/
theorem opRow_fits_iff (mnemonic : String) (code : BitVec 4) (w : OpWord) :
    (opRow mnemonic code).fits (.op w) = true ↔ w.op = code := by
  simp only [OpcodeRow.fits, opRow, OpWord.mask_eq_op, beq_iff_eq]
  generalize w.op = x
  revert x code
  decide

/-- A byte fits a row of format `CMDID` exactly when it has the row's class bits. -/
theorem cmdIdRow_fits_iff (mnemonic : String) (cl : PayloadClass) (b : Byte) :
    (cmdIdRow mnemonic (cmdIdByte 0 cl 0)).fits (.cmdId b) = true ↔ payloadClass b = cl := by
  simp only [OpcodeRow.fits, cmdIdRow, beq_iff_eq]
  revert b
  cases cl <;> decide

@[simp] theorem cmdIdRow_fits_op (mnemonic : String) (p : Byte) (w : OpWord) :
    (cmdIdRow mnemonic p).fits (.op w) = false := rfl

@[simp] theorem opRow_fits_cmdId (mnemonic : String) (code : BitVec 4) (b : Byte) :
    (opRow mnemonic code).fits (.cmdId b) = false := rfl

/-- The class of a byte, bit pattern by bit pattern (30_encoding.md R66). -/
theorem payloadClass_cases (b : Byte) :
    (b.extractLsb' 1 2 = 0b00#2 ∧ payloadClass b = .len0) ∨
    (b.extractLsb' 1 2 = 0b01#2 ∧ payloadClass b = .len2) ∨
    (b.extractLsb' 1 2 = 0b10#2 ∧ payloadClass b = .lenN) ∨
    (b.extractLsb' 1 2 = 0b11#2 ∧ payloadClass b = .bad) := by
  unfold payloadClass
  generalize b.extractLsb' 1 2 = x
  revert x
  decide

end Sys2Proof
end

