-- ==== Sys2Proof/Laws/State.lean ====
section
/-! SUPPORT. One lemma per field for each named update of the block and of the outputs, all true by
unfolding, so that no later proof unfolds a record update. -/

namespace Sys2Proof.Machine

/-! ## Outputs of a step that drives only its result -/

@[simp] theorem Outputs.only_result (r : Result) : (Outputs.only r).result = r := rfl
@[simp] theorem Outputs.only_purgeReq (r : Result) : (Outputs.only r).purgeReq = false := rfl
@[simp] theorem Outputs.only_crcOut (r : Result) : (Outputs.only r).crcOut = 0 := rfl
@[simp] theorem Outputs.only_dout (r : Result) : (Outputs.only r).dout = 0 := rfl
@[simp] theorem Outputs.only_stOut (r : Result) : (Outputs.only r).stOut = Status.clear := rfl

/-! ## Status flags -/

@[simp] theorem Status.setComm_nodev (s : Status) : s.setComm.nodev = s.nodev := rfl
@[simp] theorem Status.setComm_bus (s : Status) : s.setComm.bus = s.bus := rfl
@[simp] theorem Status.setComm_comm (s : Status) : s.setComm.comm = true := rfl
@[simp] theorem Status.setComm_param (s : Status) : s.setComm.param = s.param := rfl
@[simp] theorem Status.setComm_len (s : Status) : s.setComm.len = s.len := rfl
@[simp] theorem Status.clear_nodev : Status.clear.nodev = false := rfl
@[simp] theorem Status.clear_bus : Status.clear.bus = false := rfl
@[simp] theorem Status.clear_comm : Status.clear.comm = false := rfl
@[simp] theorem Status.clear_param : Status.clear.param = false := rfl
@[simp] theorem Status.clear_len : Status.clear.len = false := rfl

/-! ## Session reset -/

section
variable (b : Block)
@[simp] theorem Block.sessionReset_rxState : b.sessionReset.rxState = .acmd := rfl
@[simp] theorem Block.sessionReset_rxPos : b.sessionReset.rxPos = 0 := rfl
@[simp] theorem Block.sessionReset_rxCrc : b.sessionReset.rxCrc = 0 := rfl
@[simp] theorem Block.sessionReset_rxCmdid : b.sessionReset.rxCmdid = b.rxCmdid := rfl
@[simp] theorem Block.sessionReset_rxAddr : b.sessionReset.rxAddr = b.rxAddr := rfl
@[simp] theorem Block.sessionReset_rxLen : b.sessionReset.rxLen = 0 := rfl
@[simp] theorem Block.sessionReset_rxCrch : b.sessionReset.rxCrch = b.rxCrch := rfl
@[simp] theorem Block.sessionReset_rxBuf : b.sessionReset.rxBuf = b.rxBuf := rfl
@[simp] theorem Block.sessionReset_rxValid : b.sessionReset.rxValid = false := rfl
@[simp] theorem Block.sessionReset_status : b.sessionReset.status = b.status := rfl
@[simp] theorem Block.sessionReset_cfgPurge : b.sessionReset.cfgPurge = b.cfgPurge := rfl
end

/-! ## The error response -/

section
variable (c : Cause) (b : Block)
@[simp] theorem raiseError_rxState : (raiseError c b).block.rxState = .acmd := rfl
@[simp] theorem raiseError_rxPos : (raiseError c b).block.rxPos = 0 := rfl
@[simp] theorem raiseError_rxCrc : (raiseError c b).block.rxCrc = 0 := rfl
@[simp] theorem raiseError_rxCmdid : (raiseError c b).block.rxCmdid = b.rxCmdid := rfl
@[simp] theorem raiseError_rxAddr : (raiseError c b).block.rxAddr = b.rxAddr := rfl
@[simp] theorem raiseError_rxLen : (raiseError c b).block.rxLen = 0 := rfl
@[simp] theorem raiseError_rxCrch : (raiseError c b).block.rxCrch = b.rxCrch := rfl
@[simp] theorem raiseError_rxBuf : (raiseError c b).block.rxBuf = b.rxBuf := rfl
@[simp] theorem raiseError_rxValid : (raiseError c b).block.rxValid = false := rfl
@[simp] theorem raiseError_status : (raiseError c b).block.status = b.status.setComm := rfl
@[simp] theorem raiseError_cfgPurge : (raiseError c b).block.cfgPurge = b.cfgPurge := rfl
@[simp] theorem raiseError_result : (raiseError c b).out.result = c.result := rfl
@[simp] theorem raiseError_purgeReq :
    (raiseError c b).out.purgeReq = (c.isFramingError && b.cfgPurge) := rfl
@[simp] theorem raiseError_crcOut : (raiseError c b).out.crcOut = 0 := rfl
@[simp] theorem raiseError_dout : (raiseError c b).out.dout = 0 := rfl
@[simp] theorem raiseError_stOut : (raiseError c b).out.stOut = Status.clear := rfl
end

/-! ## An accepted command-id byte -/

section
variable (f : CrcStep) (b len : Byte) (next : RxState) (blk : Block)
@[simp] theorem acceptCmd_rxState : (acceptCmd f b len next blk).block.rxState = next := rfl
@[simp] theorem acceptCmd_rxPos : (acceptCmd f b len next blk).block.rxPos = 0 := rfl
@[simp] theorem acceptCmd_rxCrc :
    (acceptCmd f b len next blk).block.rxCrc = f Config.crc16Seed b := rfl
@[simp] theorem acceptCmd_rxCmdid : (acceptCmd f b len next blk).block.rxCmdid = b := rfl
@[simp] theorem acceptCmd_rxAddr : (acceptCmd f b len next blk).block.rxAddr = blk.rxAddr := rfl
@[simp] theorem acceptCmd_rxLen : (acceptCmd f b len next blk).block.rxLen = len := rfl
@[simp] theorem acceptCmd_rxCrch : (acceptCmd f b len next blk).block.rxCrch = blk.rxCrch := rfl
@[simp] theorem acceptCmd_rxBuf : (acceptCmd f b len next blk).block.rxBuf = blk.rxBuf := rfl
@[simp] theorem acceptCmd_rxValid : (acceptCmd f b len next blk).block.rxValid = false := rfl
@[simp] theorem acceptCmd_status : (acceptCmd f b len next blk).block.status = blk.status := rfl
@[simp] theorem acceptCmd_cfgPurge :
    (acceptCmd f b len next blk).block.cfgPurge = blk.cfgPurge := rfl
@[simp] theorem acceptCmd_out : (acceptCmd f b len next blk).out = Outputs.only .pending := rfl
end

/-! ## Length, address and CRC high byte -/

section
variable (f : CrcStep) (b : Byte) (blk : Block)
@[simp] theorem rxAsize_block : (rxAsize f b blk).block =
    { blk with rxLen := b, rxCrc := f blk.rxCrc b, rxState := .aaddr } := rfl
@[simp] theorem rxAsize_out : (rxAsize f b blk).out = Outputs.only .pending := rfl
@[simp] theorem rxAaddr_block : (rxAaddr f b blk).block =
    { blk with rxAddr := b, rxCrc := f blk.rxCrc b,
               rxState := if blk.rxLen = 0 then .acrch else .apay } := rfl
@[simp] theorem rxAaddr_out : (rxAaddr f b blk).out = Outputs.only .pending := rfl
@[simp] theorem rxAcrch_block :
    (rxAcrch b blk).block = { blk with rxCrch := b, rxState := .acrcl } := rfl
@[simp] theorem rxAcrch_out : (rxAcrch b blk).out = Outputs.only .pending := rfl
end

/-! ## Power-on reset and the port -/

section
variable (s : State)
@[simp] theorem State.por_block : s.por.block = Block.por s.block.cfgPurge := rfl
@[simp] theorem State.por_out : s.por.out = Outputs.only .ok := rfl
@[simp] theorem State.por_port : s.por.port = s.port := rfl
@[simp] theorem State.por_powerCycles : s.por.powerCycles = s.powerCycles + 1 := rfl
@[simp] theorem State.takeInput_block : s.takeInput.block = s.block := rfl
@[simp] theorem State.takeInput_out : s.takeInput.out = s.out := rfl
@[simp] theorem State.takeInput_port : s.takeInput.port = s.port.tail := rfl
@[simp] theorem State.takeInput_powerCycles : s.takeInput.powerCycles = s.powerCycles := rfl
@[simp] theorem State.takeInput_present (c : Code) : (s.present c).takeInput = s := rfl
@[simp] theorem State.fetch_present (c : Code) : (s.present c).fetch = .instr (decode c) := rfl
@[simp] theorem State.respond_eq_next (r : Response) (t : State) :
    s.respond r = .next t ↔ t = { s with block := r.block, out := r.out } := by
  simp only [State.respond, Host.Outcome.next.injEq]
  exact eq_comm
end

section
variable {α β : Type}
@[simp] theorem andThen_next (a : α) (k : α → Host.Outcome β Fault Refusal) :
    andThen (.next a) k = k a := rfl
@[simp] theorem andThen_refused (r : Refusal) (k : α → Host.Outcome β Fault Refusal) :
    andThen (.refused r) k = .refused r := rfl
@[simp] theorem andThen_respond (s : State) (r : Response)
    (k : State → Host.Outcome β Fault Refusal) :
    andThen (s.respond r) k = k { s with block := r.block, out := r.out } := rfl
end

end Sys2Proof.Machine
end

