-- ==== Sys2Proof/Laws/Exec.lean ====
section
/-! SUPPORT. What an operation can do, said once: `exec` answers the response of its instruction, and
a step answers one of four things. -/

namespace Sys2Proof.Machine

/-- The registers and outputs each instruction leaves, under a given `CRC16_STEP`. -/
def responseFor (f : CrcStep) (i : Instr) (s : State) : Response :=
  match i with
  | .nop => { block := s.block, out := Outputs.only .ok }
  | .reset => { block := s.block.sessionReset, out := Outputs.only .ok }
  | .rxbyte din => rxByte f din s.block
  | .rxtimeout => raiseError .eTimeout s.block
  | .stRead => { block := s.block, out := { Outputs.only .ok with stOut := s.block.status } }
  | .stClear => { block := { s.block with status := Status.clear }, out := Outputs.only .ok }
  | .bufRead idx =>
    { block := s.block
      out := if s.block.holdsIndex idx then
          { Outputs.only .ok with dout := s.block.rxBuf.readByte s.powerCycles idx.toNat }
        else Outputs.only .range }
  | .crc16Seed => { block := s.block, out := { Outputs.only .ok with crcOut := Config.crc16Seed } }
  | .crc16Step c d => { block := s.block, out := { Outputs.only .ok with crcOut := f c d } }
  | .reserved9 | .reservedA | .reservedB | .reservedC | .reservedD | .reservedE | .reservedF =>
    { block := s.block, out := Outputs.only .badop }
  | .cmdidLen0 n r => rxByte f (cmdIdByte n .len0 r) s.block
  | .cmdidLen2 n r => rxByte f (cmdIdByte n .len2 r) s.block
  | .cmdidLenN n r => rxByte f (cmdIdByte n .lenN r) s.block
  | .cmdidBad n r => rxByte f (cmdIdByte n .bad r) s.block

/-- What the instructions of `exec` leave. -/
abbrev response (i : Instr) (s : State) : Response := responseFor crc16Step i s

/-- Every operation answers a next state, and touches only the block and the outputs. -/
theorem execFor_eq_respond (f : CrcStep) (i : Instr) (s : State) :
    execFor f i s = s.respond (responseFor f i s) := by
  cases i <;> first
    | rfl
    | simp [execFor, execCmdidFor, responseFor, rxByte]

/-- `exec` is the instance at the default step (log entry 3). -/
theorem exec_eq_execFor (i : Instr) (s : State) : exec i s = execFor crc16Step i s := by
  cases i <;> rfl

theorem exec_eq_respond (i : Instr) (s : State) : exec i s = s.respond (response i s) := by
  rw [exec_eq_execFor, execFor_eq_respond]

/-- The inversion lemma of `execFor`. -/
theorem execFor_next {f : CrcStep} {i : Instr} {s t : State} :
    execFor f i s = .next t ↔
      t = { s with block := (responseFor f i s).block, out := (responseFor f i s).out } := by
  rw [execFor_eq_respond, State.respond_eq_next]

/-- The inversion lemma of `exec`. -/
theorem exec_next {i : Instr} {s t : State} :
    exec i s = .next t ↔
      t = { s with block := (response i s).block, out := (response i s).out } := by
  rw [exec_eq_respond, State.respond_eq_next]

/-- An instruction that gives a byte to the receive machine answers as RXBYTE of that byte. -/
theorem responseFor_of_takenByte {i : Instr} {b : Byte} (f : CrcStep)
    (h : takenByte i = some b) (s : State) : responseFor f i s = rxByte f b s.block := by
  cases i <;> simp [takenByte] at h <;> subst h <;> rfl

theorem response_of_takenByte {i : Instr} {b : Byte} (h : takenByte i = some b) (s : State) :
    response i s = rxByte crc16Step b s.block := responseFor_of_takenByte crc16Step h s

/-- The inversion lemma of `stepBy`: POR, an idle step, one decoded operation, or the overlap. -/
theorem stepBy_cases (ex : Instr → State → Host.Outcome State Fault Refusal) (s : State) :
    (s.port = [] ∧ s.stepBy ex = ex .nop s.takeInput) ∨
    ∃ p rest, s.port = p :: rest ∧
      ((p.por = true ∧ s.stepBy ex = .next s.takeInput.por) ∨
       (p.por = false ∧ p.ops = [] ∧ s.stepBy ex = ex .nop s.takeInput) ∨
       (∃ c, p.por = false ∧ p.ops = [c] ∧ s.stepBy ex = ex (decode c) s.takeInput) ∨
       (p.por = false ∧ 2 ≤ p.ops.length ∧ s.stepBy ex = .refused .overlappingOperations)) := by
  rcases hp : s.port with _ | ⟨p, rest⟩
  · exact .inl ⟨rfl, by simp [State.stepBy, State.fetch, hp]⟩
  · refine .inr ⟨p, rest, rfl, ?_⟩
    rcases hpor : p.por with _ | _
    · rcases hops : p.ops with _ | ⟨c, _ | ⟨d, more⟩⟩ <;>
        simp [State.stepBy, State.fetch, hp, PortInput.request, hpor, hops]
    · simp [State.stepBy, State.fetch, hp, PortInput.request, hpor]

/-- The inversion lemma of `step`. -/
theorem step_cases (s : State) :
    (s.port = [] ∧ step s = exec .nop s.takeInput) ∨
    ∃ p rest, s.port = p :: rest ∧
      ((p.por = true ∧ step s = .next s.takeInput.por) ∨
       (p.por = false ∧ p.ops = [] ∧ step s = exec .nop s.takeInput) ∨
       (∃ c, p.por = false ∧ p.ops = [c] ∧ step s = exec (decode c) s.takeInput) ∨
       (p.por = false ∧ 2 ≤ p.ops.length ∧ step s = .refused .overlappingOperations)) :=
  stepBy_cases exec s

/-- `step` is the instance at the default step. -/
theorem step_eq_stepFor (s : State) : step s = stepFor crc16Step s := by
  have h : exec = execFor crc16Step := funext fun i => funext fun s => exec_eq_execFor i s
  rw [step, stepFor, h]

end Sys2Proof.Machine
end

