-- ==== Sys2Proof/Laws/Memory.lean ====
section
/-! SUPPORT. The laws of the scratch buffer: read after write, and that a write keeps the canonical
form (10_state.md R18; 20_memory.md R41). -/

namespace Sys2Proof.Machine

@[simp] theorem Memory.read_nil (i : Nat) : Memory.read? [] i = none := rfl

theorem Memory.read_write (m : Memory) (i j : Nat) (v : Byte) :
    (m.write i v).read? j = if j = i then some v else m.read? j := by
  induction m with
  | nil => simp [Memory.write, Memory.read?, eq_comm]
  | cons c rest ih =>
    obtain ⟨a, u⟩ := c
    simp only [Memory.write]
    split
    · simp [Memory.read?, eq_comm]
    · split
      · subst ‹i = a›
        simp only [Memory.read?]
        by_cases hji : j = i
        · simp [hji]
        · simp [hji, Ne.symm hji]
      · rename_i _ hia
        simp only [Memory.read?, ih]
        by_cases haj : a = j
        · simp [haj, show ¬ j = i from fun h => hia (h ▸ haj.symm)]
        · simp [haj]

@[simp] theorem Memory.read_write_same (m : Memory) (i : Nat) (v : Byte) :
    (m.write i v).read? i = some v := by simp [Memory.read_write]

theorem Memory.read_write_other (m : Memory) {i j : Nat} (v : Byte) (h : j ≠ i) :
    (m.write i v).read? j = m.read? j := by simp [Memory.read_write, h]

theorem Memory.wfFrom_write {m : Memory} {lo i : Nat} (v : Byte) (h : Memory.wfFrom lo m = true)
    (hlo : lo ≤ i) (hi : i < Config.maxPayload) : Memory.wfFrom lo (m.write i v) = true := by
  induction m generalizing lo with
  | nil => simp [Memory.write, Memory.wfFrom, hlo, hi]
  | cons c rest ih =>
    obtain ⟨a, u⟩ := c
    simp only [Memory.wfFrom, Bool.and_eq_true, decide_eq_true_eq] at h
    obtain ⟨⟨hla, ham⟩, hr⟩ := h
    simp only [Memory.write]
    split_ifs with h1 h2
    · simp [Memory.wfFrom, hlo, hi, Nat.succ_le_of_lt h1, ham, hr]
    · subst h2
      simp [Memory.wfFrom, hlo, hi, hr]
    · simp [Memory.wfFrom, hla, ham, ih hr (by omega)]

/-- A write to a location of the buffer keeps the canonical form. -/
theorem Memory.wf_write {m : Memory} {i : Nat} (v : Byte) (h : m.wf = true)
    (hi : i < Config.maxPayload) : (m.write i v).wf = true :=
  Memory.wfFrom_write v h (Nat.zero_le i) hi

theorem Memory.wfFrom_read {m : Memory} {lo i : Nat} {v : Byte}
    (h : Memory.wfFrom lo m = true) (hr : m.read? i = some v) :
    lo ≤ i ∧ i < Config.maxPayload := by
  induction m generalizing lo with
  | nil => simp at hr
  | cons c rest ih =>
    obtain ⟨a, u⟩ := c
    simp only [Memory.wfFrom, Bool.and_eq_true, decide_eq_true_eq] at h
    obtain ⟨⟨hla, ham⟩, hrest⟩ := h
    simp only [Memory.read?] at hr
    split_ifs at hr with ha
    · exact ⟨ha ▸ hla, ha ▸ ham⟩
    · exact ⟨by have := (ih hrest hr).1; omega, (ih hrest hr).2⟩

/-- Only locations of the buffer are listed. -/
theorem Memory.wf_read {m : Memory} {i : Nat} {v : Byte} (h : m.wf = true)
    (hr : m.read? i = some v) : i < Config.maxPayload := (Memory.wfFrom_read h hr).2

/-- The buffer after power-on reset is in canonical form. -/
theorem Memory.wf_nil : Memory.wf [] = true := rfl

@[simp] theorem Memory.readByte_of_read {n : Nat} {m : Memory} {i : Nat} {v : Byte}
    (h : m.read? i = some v) : m.readByte n i = v := by simp [Memory.readByte, h]

@[simp] theorem Memory.writtenBelow_zero (m : Memory) : m.WrittenBelow 0 :=
  fun _ h => absurd h (Nat.not_lt_zero _)

theorem Memory.writtenBelow_write {m : Memory} {n i : Nat} (v : Byte) (h : m.WrittenBelow n) :
    (m.write i v).WrittenBelow n := by
  intro j hj
  rw [Memory.read_write]
  split_ifs
  · rfl
  · exact h j hj

/-- Storing at the cursor writes one more location. -/
theorem Memory.writtenBelow_write_succ {m : Memory} {n : Nat} (v : Byte) (h : m.WrittenBelow n) :
    (m.write n v).WrittenBelow (n + 1) := by
  intro j hj
  rw [Memory.read_write]
  split_ifs with hjn
  · rfl
  · exact h j (by omega)

end Sys2Proof.Machine
end

