-- ==== Sys2Proof/Laws/PerInstr.lean ====
section
/-! SUPPORT. Per instruction: the code an instruction is encoded as fits the row of
spec/opcode_table.json that has its mnemonic. -/

namespace Sys2Proof

theorem opRow_fits (mnemonic : String) (op : BitVec 4) (din : Byte) (crcIn : Word)
    (idx : BitVec 7) :
    (opRow mnemonic op).fits (.op (OpWord.ofFields op din crcIn idx)) = true :=
  (opRow_fits_iff _ _ _).2 (OpWord.op_ofFields _ _ _ _)

theorem cmdIdRow_fits (mnemonic : String) (n : BitVec 5) (cl : PayloadClass) (r : BitVec 1) :
    (cmdIdRow mnemonic (cmdIdByte 0 cl 0)).fits (.cmdId (cmdIdByte n cl r)) = true :=
  (cmdIdRow_fits_iff _ _ _).2 (payloadClass_cmdIdByte _ _ _)

namespace Laws.FitsItsRow

/-- The row of the table with the instruction's mnemonic is fitted by its encoding. -/
def Statement (i : Instr) : Prop :=
  ∃ row ∈ opcodeTable, row.mnemonic = i.mnemonic ∧ row.fits (encode i) = true

theorem ofOpRow {i : Instr} {op : BitVec 4} {din : Byte} {crcIn : Word} {idx : BitVec 7}
    (name : String) (hm : opRow name op ∈ opcodeTable) (hn : name = i.mnemonic)
    (he : encode i = .op (OpWord.ofFields op din crcIn idx)) : Statement i :=
  ⟨_, hm, hn, he ▸ opRow_fits _ _ _ _ _⟩

theorem nop : Statement .nop := ofOpRow "NOP" (by decide) rfl rfl
theorem reset : Statement .reset := ofOpRow "RESET" (by decide) rfl rfl
theorem rxbyte (din : Byte) : Statement (.rxbyte din) := ofOpRow "RXBYTE" (by decide) rfl rfl
theorem rxtimeout : Statement .rxtimeout := ofOpRow "RXTIMEOUT" (by decide) rfl rfl
theorem stRead : Statement .stRead := ofOpRow "ST_READ" (by decide) rfl rfl
theorem stClear : Statement .stClear := ofOpRow "ST_CLEAR" (by decide) rfl rfl
theorem bufRead (idx : BitVec 7) : Statement (.bufRead idx) := ofOpRow "BUF_READ" (by decide) rfl rfl
theorem crc16Seed : Statement .crc16Seed := ofOpRow "CRC16.SEED" (by decide) rfl rfl
theorem crc16Step (crcIn : Word) (din : Byte) : Statement (.crc16Step crcIn din) :=
  ofOpRow "CRC16.STEP" (by decide) rfl rfl
theorem reserved9 : Statement .reserved9 := ofOpRow "RESERVED.9" (by decide) rfl rfl
theorem reservedA : Statement .reservedA := ofOpRow "RESERVED.A" (by decide) rfl rfl
theorem reservedB : Statement .reservedB := ofOpRow "RESERVED.B" (by decide) rfl rfl
theorem reservedC : Statement .reservedC := ofOpRow "RESERVED.C" (by decide) rfl rfl
theorem reservedD : Statement .reservedD := ofOpRow "RESERVED.D" (by decide) rfl rfl
theorem reservedE : Statement .reservedE := ofOpRow "RESERVED.E" (by decide) rfl rfl
theorem reservedF : Statement .reservedF := ofOpRow "RESERVED.F" (by decide) rfl rfl
theorem cmdidLen0 (n : BitVec 5) (r : BitVec 1) : Statement (.cmdidLen0 n r) :=
  ⟨_, by decide, rfl, cmdIdRow_fits "CMDID.LEN0" n .len0 r⟩
theorem cmdidLen2 (n : BitVec 5) (r : BitVec 1) : Statement (.cmdidLen2 n r) :=
  ⟨_, by decide, rfl, cmdIdRow_fits "CMDID.LEN2" n .len2 r⟩
theorem cmdidLenN (n : BitVec 5) (r : BitVec 1) : Statement (.cmdidLenN n r) :=
  ⟨_, by decide, rfl, cmdIdRow_fits "CMDID.LENN" n .lenN r⟩
theorem cmdidBad (n : BitVec 5) (r : BitVec 1) : Statement (.cmdidBad n r) :=
  ⟨_, by decide, rfl, cmdIdRow_fits "CMDID.BAD" n .bad r⟩

end Laws.FitsItsRow
end Sys2Proof
end

