-- ==== Sys2Proof/Laws/Rx.lean ====
section
/-! SUPPORT. RXBYTE, one lemma per state of the receive machine, and the runs over lists of bytes
(41_rx_framing.md R110 to R116). -/

namespace Sys2Proof.Machine

section
variable {f : CrcStep} {b : Byte} {blk : Block}

theorem rxByte_acmd (h : blk.rxState = .acmd) :
    rxByte f b blk = acceptClass f (payloadClass b) b blk := by simp [rxByte, rxDispatch, h]

theorem rxByte_asize (h : blk.rxState = .asize) : rxByte f b blk = rxAsize f b blk := by
  simp [rxByte, rxDispatch, h]

theorem rxByte_aaddr (h : blk.rxState = .aaddr) : rxByte f b blk = rxAaddr f b blk := by
  simp [rxByte, rxDispatch, h]

theorem rxByte_apay (h : blk.rxState = .apay) : rxByte f b blk = rxApay f b blk := by
  simp [rxByte, rxDispatch, h]

theorem rxByte_acrch (h : blk.rxState = .acrch) : rxByte f b blk = rxAcrch b blk := by
  simp [rxByte, rxDispatch, h]

theorem rxByte_acrcl (h : blk.rxState = .acrcl) : rxByte f b blk = rxAcrcl b blk := by
  simp [rxByte, rxDispatch, h]

theorem rxApay_store (h : blk.rxPos.val < Config.maxPayload) :
    rxApay f b blk =
      { block := { blk with rxBuf := blk.rxBuf.write blk.rxPos.val b, rxCrc := f blk.rxCrc b,
                            rxPos := ⟨blk.rxPos.val + 1, Nat.succ_lt_succ h⟩,
                            rxState := if blk.rxPos.val + 1 = blk.rxLen.toNat then .acrch
                              else .apay }
        out := Outputs.only .pending } := by simp [rxApay, h]

theorem rxApay_overrun (h : blk.rxPos.val = Config.maxPayload) :
    rxApay f b blk = raiseError (.eOverrun b) blk := by simp [rxApay, h]

theorem rxAcrcl_match (h : trailer blk.rxCrch b = blk.rxCrc) :
    rxAcrcl b blk = { block := { blk with rxValid := true, rxState := .acmd, rxPos := 0 }
                      out := Outputs.only .complete } := by simp [rxAcrcl, h]

theorem rxAcrcl_mismatch (h : trailer blk.rxCrch b ≠ blk.rxCrc) :
    rxAcrcl b blk = raiseError (.eCrc (trailer blk.rxCrch b)) blk := by simp [rxAcrcl, h]

end

/-- Everything RXBYTE can do: the inversion lemma of `rxByte` (41_rx_framing.md R118). -/
theorem rxByte_cases (f : CrcStep) (b : Byte) (blk : Block) :
    (blk.rxState = .acmd ∧ payloadClass b = .len0 ∧ rxByte f b blk = acceptCmd f b 0 .aaddr blk) ∨
    (blk.rxState = .acmd ∧ payloadClass b = .len2 ∧ rxByte f b blk = acceptCmd f b 2 .aaddr blk) ∨
    (blk.rxState = .acmd ∧ payloadClass b = .lenN ∧ rxByte f b blk = acceptCmd f b 0 .asize blk) ∨
    (blk.rxState = .acmd ∧ payloadClass b = .bad ∧
      rxByte f b blk = raiseError (.eClass b) blk) ∨
    (blk.rxState = .asize ∧ rxByte f b blk = rxAsize f b blk) ∨
    (blk.rxState = .aaddr ∧ rxByte f b blk = rxAaddr f b blk) ∨
    (blk.rxState = .apay ∧ blk.rxPos.val < Config.maxPayload ∧
      rxByte f b blk = rxApay f b blk) ∨
    (blk.rxState = .apay ∧ blk.rxPos.val = Config.maxPayload ∧
      rxByte f b blk = raiseError (.eOverrun b) blk) ∨
    (blk.rxState = .acrch ∧ rxByte f b blk = rxAcrch b blk) ∨
    (blk.rxState = .acrcl ∧ trailer blk.rxCrch b = blk.rxCrc ∧
      rxByte f b blk = { block := { blk with rxValid := true, rxState := .acmd, rxPos := 0 }
                         out := Outputs.only .complete }) ∨
    (blk.rxState = .acrcl ∧ trailer blk.rxCrch b ≠ blk.rxCrc ∧
      rxByte f b blk = raiseError (.eCrc (trailer blk.rxCrch b)) blk) := by
  cases hst : blk.rxState
  · rw [rxByte_acmd hst]; cases hc : payloadClass b <;> simp [acceptClass]
  · simp [rxByte_asize hst]
  · simp [rxByte_aaddr hst]
  · rw [rxByte_apay hst]
    by_cases hp : blk.rxPos.val < Config.maxPayload
    · simp [hp]
    · have : blk.rxPos.val = Config.maxPayload := by have := blk.rxPos.isLt; omega
      simp [this, rxApay_overrun this]
  · simp [rxByte_acrch hst]
  · rw [rxByte_acrcl hst]
    by_cases hm : trailer blk.rxCrch b = blk.rxCrc
    · simp [hm, rxAcrcl_match hm]
    · simp [hm, rxAcrcl_mismatch hm]

/-! ## Runs -/

@[simp] theorem rxRun_nil (f : CrcStep) (blk : Block) : rxRun f [] blk = (blk, []) := rfl

@[simp] theorem rxRun_cons (f : CrcStep) (b : Byte) (bs : List Byte) (blk : Block) :
    rxRun f (b :: bs) blk =
      ((rxRun f bs (rxByte f b blk).block).1,
       (rxByte f b blk).out :: (rxRun f bs (rxByte f b blk).block).2) := rfl

theorem rxRun_append (f : CrcStep) (xs ys : List Byte) (blk : Block) :
    rxRun f (xs ++ ys) blk =
      ((rxRun f ys (rxRun f xs blk).1).1,
       (rxRun f xs blk).2 ++ (rxRun f ys (rxRun f xs blk).1).2) := by
  induction xs generalizing blk with
  | nil => simp
  | cons x xs ih => simp [ih]

theorem rxRun_length (f : CrcStep) (bs : List Byte) (blk : Block) :
    (rxRun f bs blk).2.length = bs.length := by
  induction bs generalizing blk with
  | nil => rfl
  | cons b bs ih => simp [ih]

@[simp] theorem issue_nil (f : CrcStep) (s : State) : issue f [] s = .next (s, []) := rfl

/-- One operation of an issued sequence. -/
theorem issue_cons (f : CrcStep) (i : Instr) (is : List Instr) (s : State) :
    issue f (i :: is) s =
      andThen (issue f is
          { s with block := (responseFor f i s).block, out := (responseFor f i s).out })
        (fun u => .next (u.1, (responseFor f i s).out :: u.2)) := by
  simp [issue, execFor_eq_respond]

end Sys2Proof.Machine
end

