-- ==== Sys2Proof/Tests/Slice0.lean ====
section
/-! SUPPORT. Tests on single words, single steps and single frames, each with an expected value taken
from spec/95_test_vectors.md (parts B1 to B7), spec/96_test_programs.md (P6) or the rule named; and
one witness per statement that has hypotheses. -/

open Sys2Proof Sys2Proof.Machine

namespace Sys2Proof.Tests

/-! ## States of the vectors, written as the 9-tuple of 95_test_vectors.md -/

/-- `(rx_state, rx_pos, rx_crc, rx_cmdid, rx_addr, rx_len, rx_crch, rx_valid, status.COMM)`, with the
buffer and the strap. -/
def tuple (rs : RxState) (pos : Fin 121) (crc : Word) (cmdid addr len crch : Byte)
    (valid comm : Bool) (buf : Memory := []) (purge : Bool := false) : Block :=
  ⟨rs, pos, crc, cmdid, addr, len, crch, buf, valid, ⟨false, false, comm, false, false⟩, purge⟩

/-- A block with the outputs of its last step, nothing at the port. -/
def at9 (b : Block) (o : Outputs := Outputs.only .ok) : State :=
  { block := b, out := o, port := [], powerCycles := 0 }

/-- The state a step answers, `s` itself where it does not answer one. -/
def after (i : Instr) (s : State) : State :=
  match exec i s with
  | .next t => t
  | .fault _ => s
  | .refused _ => s

/-- The operations that never stop: `after` is the answer. -/
theorem exec_after (i : Instr) (s : State) : exec i s = .next (after i s) := by
  rw [after, exec_eq_respond]; rfl

/-- The POR state of 95_test_vectors.md. -/
def idle : Block := tuple .acmd 0 0 0 0 0 0 false false
/-- The frame `[04 03 07 AA BB CC 16 6E]` after its length byte. -/
def sizeDone : Block := tuple .aaddr 0 0x4371 0x04 0 3 0 false false
/-- A two-byte frame after its command-id byte. -/
def cmdDone : Block := tuple .aaddr 0 0xBF40 0x00 0 0 0 false false
/-- Awaiting the length byte. -/
def sizeNext : Block := tuple .asize 0 0xBE83 0x04 0 0 0 false false
/-- After one payload byte. -/
def mid : Block := tuple .apay 1 0x735B 0x04 0x07 3 0 false false [(0, 0xAA)]
/-- At the last location of the buffer. -/
def nearFull : Block := tuple .apay 119 0x1234 0x04 0x01 120 0 false false
/-- At the capacity, the 121st byte to come. -/
def full (purge : Bool) : Block := tuple .apay 120 0xDFD2 0x04 0x01 255 0 false false [] purge
/-- The payload of the running example. -/
def buf3 : Memory := [(0, 0xAA), (1, 0xBB), (2, 0xCC)]
/-- Awaiting the CRC high byte. -/
def hiNext : Block := tuple .acrch 3 0x166E 0x04 0x07 3 0 false false buf3
/-- Awaiting the CRC low byte. -/
def loNext : Block := tuple .acrcl 3 0x166E 0x04 0x07 3 0x16 false false buf3
/-- The frame held. -/
def held : Block := tuple .acmd 0 0x166E 0x04 0x07 3 0x16 true false buf3
/-- A held frame that fills the buffer as far as its length says. -/
def heldFull : Block := tuple .acmd 0 0 0x04 0x01 120 0 true false

/-! ## Decoding: words written out bit by bit from 30_encoding.md R61, R65 -/

/-- `idx crc_in din op` = `0000000 0000000000000000 00000100 0010`: RXBYTE 0x04 (R75). -/
theorem test_decode_rxbyte :
    decodeTableWord 40 0b00000000000000000000000000001000010 = some (.rxbyte 0x04) := by decide

/-- RXTIMEOUT is `0x000000003` (B7). -/
theorem test_decode_rxtimeout : decodeTableWord 40 0x000000003 = some .rxtimeout := by decide

/-- `BUF_READ 120` is `0x780000006` (B7). -/
theorem test_decode_bufRead : decodeTableWord 40 0x780000006 = some (.bufRead 120) := by decide

/-- The control words of B7. -/
theorem test_decode_control :
    decodeTableWord 40 0x000000000 = some .nop ∧ decodeTableWord 40 0x000000001 = some .reset ∧
    decodeTableWord 40 0x000000004 = some .stRead ∧
    decodeTableWord 40 0x000000005 = some .stClear := by decide

/-- The CRC words of B1: `CRC16.STEP 0x1234, 0x56` is `0x001234568`. -/
theorem test_decode_crc :
    decodeTableWord 40 0x000000007 = some .crc16Seed ∧
    decodeTableWord 40 0x001234568 = some (.crc16Step 0x1234 0x56) := by decide

/-- The seven reserved codes (R61, R145). -/
theorem test_decode_reserved :
    decodeTableWord 40 0x9 = some .reserved9 ∧ decodeTableWord 40 0xA = some .reservedA ∧
    decodeTableWord 40 0xB = some .reservedB ∧ decodeTableWord 40 0xC = some .reservedC ∧
    decodeTableWord 40 0xD = some .reservedD ∧ decodeTableWord 40 0xE = some .reservedE ∧
    decodeTableWord 40 0xF = some .reservedF := by decide

/-- `0x2D` = `00101 10 1`: cmdnum 5, class `10`, reply 1; `0xFB` = `11111 01 1` (B4). -/
theorem test_decode_cmdId :
    decodeTableWord 8 0b00101101 = some (.cmdidLenN 5 1) ∧
    decodeTableWord 8 0b11111011 = some (.cmdidLen2 31 1) ∧
    decodeTableWord 8 0b00001000 = some (.cmdidLen0 1 0) ∧
    decodeTableWord 8 0b11111110 = some (.cmdidBad 31 0) := by decide

/-- The bytes of a word, the first least significant. -/
theorem test_decodeBytes :
    (decodeBytes [0x42, 0x00, 0x00, 0x00, 0x00]).toOption = some (.rxbyte 0x04) ∧
    (decodeBytes [0x04]).toOption = some (.cmdidLenN 0 0) := by decide

/-- What is no code is rejected by name: no bits, a ninth bit in a byte, a bit above bit 34. -/
theorem test_decode_rejects :
    tableCode 0 0 = .error .noBits ∧ tableCode 8 0x100 = .error .bitsAboveWidth ∧
    tableCode 40 0x800000000 = .error .bitsAboveOperationWord := ⟨rfl, rfl, rfl⟩

/-! ## Well-formedness (30_encoding.md R76; the undefined calls listed in B5) -/

theorem test_wf_refuses_class_bad : FrameCall.wellFormed ⟨0x06, 0x01, []⟩ = false := by decide
theorem test_wf_refuses_len0_payload : FrameCall.wellFormed ⟨0x00, 0x01, [0x00]⟩ = false := by decide
theorem test_wf_refuses_len2_empty : FrameCall.wellFormed ⟨0x02, 0x01, []⟩ = false := by decide
theorem test_wf_refuses_lenN_long :
    FrameCall.wellFormed ⟨0x04, 0x01, List.replicate 121 0xFF⟩ = false := by decide +kernel
theorem test_wf_accepts :
    FrameCall.wellFormed ⟨0x00, 0x01, []⟩ = true ∧
    FrameCall.wellFormed ⟨0x02, 0x05, [0x12, 0x34]⟩ = true ∧
    FrameCall.wellFormed ⟨0x04, 0x01, List.replicate 120 0xFF⟩ = true := by decide +kernel

/-! ## The CRC engine (B1, B2) -/

theorem test_crc16Step :
    exec (.crc16Step 0x1234 0x56) (at9 mid) =
      .next (at9 mid ⟨.ok, false, 0x3433, 0, ⟨false, false, false, false, false⟩⟩) := by rfl
theorem test_crc16Seed :
    exec .crc16Seed (at9 mid) =
      .next (at9 mid ⟨.ok, false, 0xFFFF, 0, ⟨false, false, false, false, false⟩⟩) := by rfl
theorem test_crc_rows : crc16Step 0xFFFF 0x31 = 0x7E94 ∧ crc16Step 0xC070 0xC0 = 0x7000 := by decide
theorem test_crc_serial : crc16StepSerial 0xFFFF 0x31 = 0x7E94 := by decide
/-- `CRC16.BUF "123456789" = 0x374B`. -/
theorem test_crc_check :
    crc16Buf crc16Step [0x31, 0x32, 0x33, 0x34, 0x35, 0x36, 0x37, 0x38, 0x39] = 0x374B := by decide

/-! ## RXBYTE (B6) -/

/-- The last payload byte. -/
theorem test_rxbyte_last_payload :
    exec (.rxbyte 0xCC) (at9 (tuple .apay 2 0x5A96 0x04 0x07 3 0 false false
      [(0, 0xAA), (1, 0xBB)])) = .next (at9 hiNext (Outputs.only .pending)) := by rfl

/-- A matching CRC low byte completes the frame. -/
theorem test_rxbyte_complete :
    exec (.rxbyte 0x6E) (at9 loNext) = .next (at9 held (Outputs.only .complete)) := by rfl

/-- The overrun, with the strap set. -/
theorem test_rxbyte_overrun :
    exec (.rxbyte 0x55) (at9 (full true)) =
      .next (at9 (tuple .acmd 0 0 0x04 0x01 0 0 false true [] true)
        ⟨.errOverrun, true, 0, 0, ⟨false, false, false, false, false⟩⟩) := by rfl

/-- A timeout in mid-frame (B7). -/
theorem test_rxtimeout :
    exec .rxtimeout (at9 mid) =
      .next (at9 (tuple .acmd 0 0 0x04 0x07 0 0 false true [(0, 0xAA)])
        (Outputs.only .timeout)) := by rfl

/-! ## The command-id rows (B4) -/

theorem test_cmdidLen0 :
    exec (.cmdidLen0 31 0) (at9 idle) =
      .next (at9 (tuple .aaddr 0 0xBEC2 0xF8 0 0 0 false false) (Outputs.only .pending)) := by rfl
theorem test_cmdidLen2 :
    exec (.cmdidLen2 31 1) (at9 idle) =
      .next (at9 (tuple .aaddr 0 0xFEC3 0xFB 0 2 0 false false) (Outputs.only .pending)) := by rfl
/-- The held frame is dropped (B6). -/
theorem test_cmdidLenN :
    exec (.cmdidLenN 0 0) (at9 held) =
      .next (at9 (tuple .asize 0 0xBE83 0x04 0x07 0 0x16 false false buf3)
        (Outputs.only .pending)) := by rfl
theorem test_cmdidBad :
    exec (.cmdidBad 31 1) (at9 held) =
      .next (at9 (tuple .acmd 0 0 0x04 0x07 0 0x16 false true buf3)
        (Outputs.only .errClass)) := by rfl

/-! ## Control operations (B7) -/

theorem test_nop : exec .nop (at9 mid) = .next (at9 mid) := by rfl
theorem test_reset :
    exec .reset (at9 { loNext with status := ⟨false, false, true, false, false⟩ }) =
      .next (at9 (tuple .acmd 0 0 0x04 0x07 0 0x16 false true buf3)) := by rfl
theorem test_stRead :
    exec .stRead (at9 (tuple .acmd 0 0 0 0 0 0 false true)) =
      .next (at9 (tuple .acmd 0 0 0 0 0 0 false true)
        ⟨.ok, false, 0, 0, ⟨false, false, true, false, false⟩⟩) := by rfl
theorem test_stClear :
    exec .stClear (at9 (tuple .apay 1 0x735B 0x04 0x07 3 0 false true [(0, 0xAA)])) =
      .next (at9 mid) := by rfl
theorem test_bufRead :
    exec (.bufRead 2) (at9 held) =
      .next (at9 held ⟨.ok, false, 0, 0xCC, ⟨false, false, false, false, false⟩⟩) := by rfl
theorem test_bufRead_range :
    exec (.bufRead 3) (at9 held) = .next (at9 held (Outputs.only .range)) := by rfl
theorem test_reserved :
    exec .reserved9 (at9 mid) = .next (at9 mid (Outputs.only .badop)) ∧
    exec .reservedF (at9 idle) = .next (at9 idle (Outputs.only .badop)) := ⟨rfl, rfl⟩

/-! ## Steps and the port -/

/-- The first instruction after reset. -/
theorem test_step_first :
    step (State.reset.withFetchWord 40 0x000000042) =
      .next (at9 (tuple .asize 0 0xBE83 0x04 0 0 0 false false) (Outputs.only .pending)) := by rfl
/-- POR wins over an operation presented with it (70_reset_and_hazards.md R190). -/
theorem test_step_por :
    step { at9 held with port := [{ por := true, ops := [.op 0x3] }] } =
      .next { at9 idle with powerCycles := 1 } := by rfl

/-! ## Frames (B5, B6, P6) -/

theorem test_frame :
    frame crc16Step ⟨0x04, 0x07, [0xAA, 0xBB, 0xCC]⟩ =
      some [0x04, 0x03, 0x07, 0xAA, 0xBB, 0xCC, 0x16, 0x6E] ∧
    frame crc16Step ⟨0x03, 0x05, [0x12, 0x34]⟩ = some [0x03, 0x05, 0x12, 0x34, 0x1D, 0x16] ∧
    frame crc16Step ⟨0x00, 0x01, []⟩ = some [0x00, 0x01, 0xC0, 0x70] := by decide

/-- The frame of the running example leaves it held. -/
theorem test_rxRun :
    (rxRun crc16Step [0x04, 0x03, 0x07, 0xAA, 0xBB, 0xCC, 0x16, 0x6E] idle).1 = held := by decide

/-- The false completion: one class bit of `FRAME 0x04, 0xC0, [0x70]` flipped, the fourth byte
completes a shorter frame (41_rx_framing.md R123 (c); program P6). -/
theorem test_false_completion :
    frame crc16Step ⟨0x04, 0xC0, [0x70]⟩ = some [0x04, 0x01, 0xC0, 0x70, 0x01, 0x30] ∧
    (rxRun crc16Step [0x00, 0x01, 0xC0, 0x70] idle).2.map Outputs.result =
      [.pending, .pending, .pending, .complete] := by decide

/-- The worked examples of `RECV` (41_rx_framing.md R121). -/
theorem test_recv :
    (∃ t tr, recv crc16Step ⟨[some 0x00, some 0x01, some 0xC0, some 0x70, none], 0⟩ (at9 idle) = .next (t, tr) ∧
      t.out.result = .complete) ∧
    (∃ t tr, recv crc16Step ⟨[some 0x00, some 0x01], 0⟩ (at9 idle) = .next (t, tr) ∧
      t.out.result = .timeout) :=
  ⟨⟨_, _, rfl, rfl⟩, ⟨_, _, rfl, rfl⟩⟩

/-! ## Witnesses: states of the hardware -/

/-- A state in mid-frame meets the invariants. -/
theorem inv_mid : (at9 mid).Inv := by
  constructor
  case stored =>
    intro i hi
    have h0 : i = 0 := by
      have : i < 1 := hi
      omega
    subst h0; rfl
  case heldStored => exact fun h => absurd h (by decide)
  all_goals decide

/-- Every location below 3 of `buf3` has been written. -/
theorem buf3_written : Memory.WrittenBelow buf3 3 := by
  intro i hi
  have h : i = 0 ∨ i = 1 ∨ i = 2 := by omega
  rcases h with rfl | rfl | rfl <;> rfl

theorem inv_held : (at9 held).Inv := by
  constructor
  case stored => exact Memory.writtenBelow_zero _
  case heldStored => exact fun _ => buf3_written
  all_goals decide

theorem inv_loNext : (at9 loNext).Inv := by
  constructor
  case stored => exact buf3_written
  case heldStored => exact fun h => absurd h (by decide)
  all_goals decide

/-- `held` holds the frame `04, 07, [AA BB CC]`. -/
theorem holds_held : held.HoldsFrame 0x04 0x07 [0xAA, 0xBB, 0xCC] := by
  constructor
  case bytes =>
    intro k hk
    have h : k = 0 ∨ k = 1 ∨ k = 2 := by
      have : k < 3 := hk
      omega
    rcases h with rfl | rfl | rfl <;> rfl
  all_goals rfl

/-- A step function with both properties of 40_crc16.md R91. -/
def addStep : CrcStep := fun c b => c + b.setWidth 16

theorem addStep_injectiveInByte : InjectiveInByte addStep := by
  intro c b b' h
  have h' := congrArg BitVec.toNat h
  apply BitVec.eq_of_toNat_eq
  have h1 := b.isLt
  have h2 := b'.isLt
  have h3 := c.isLt
  simp only [addStep, BitVec.toNat_add, BitVec.toNat_setWidth] at h'
  omega

theorem addStep_injectiveInAccumulator : InjectiveInAccumulator addStep := by
  intro b c c' h
  have h' : c + b.setWidth 16 = c' + b.setWidth 16 := h
  exact add_right_cancel h'

/-! ## Witnesses, one per statement with hypotheses -/

theorem witness_ReservedCodesAnswerBadOp :
    (∀ i ∈ [Instr.reserved9, .reservedF], i ∈ [Instr.reserved9, .reservedA, .reservedB, .reservedC,
      .reservedD, .reservedE, .reservedF]) ∧
    9 ≤ ((0x000000009 : OpWord).extractLsb' 0 4).toNat ∧
    9 ≤ ((0x7FFFFFFFF : OpWord).extractLsb' 0 4).toNat := by decide

theorem witness_BufReadGivesAHeldByteOrRange :
    ((at9 held).block.rxValid = true ∧ (2 : BitVec 7).toNat < (at9 held).block.rxLen.toNat ∧
      (2 : BitVec 7).toNat < 120) ∧
    ((at9 heldFull).block.rxValid = true ∧
      (119 : BitVec 7).toNat < (at9 heldFull).block.rxLen.toNat ∧ (119 : BitVec 7).toNat < 120) ∧
    (at9 mid).block.rxValid = false ∧
    (at9 held).block.rxLen.toNat ≤ (3 : BitVec 7).toNat ∧ 120 ≤ (120 : BitVec 7).toNat := by decide

theorem witness_OnePositionChangeChangesTheCrc :
    InjectiveInByte addStep ∧ InjectiveInAccumulator addStep ∧
    1 < ([0x00, 0x01] : List Byte).length ∧ ([0x00, 0x01] : List Byte)[1]? ≠ some 0x03 :=
  ⟨addStep_injectiveInByte, addStep_injectiveInAccumulator, by decide, by decide⟩

theorem witness_CommandByteIsTakenByItsClass :
    (at9 idle).block.rxState = .acmd ∧
    (0xF8 : Byte).extractLsb' 1 2 = 0b00#2 ∧ (0x03 : Byte).extractLsb' 1 2 = 0b01#2 ∧
    (0x04 : Byte).extractLsb' 1 2 = 0b10#2 ∧ (0xFF : Byte).extractLsb' 1 2 = 0b11#2 := by decide

theorem witness_LengthByteIsTakenAsItIs : (at9 sizeNext).block.rxState = .asize := by decide

theorem witness_AddressByteLeadsToPayloadOrTrailer :
    ((at9 cmdDone).block.rxState = .aaddr ∧ (at9 cmdDone).block.rxLen = 0) ∧
    ((at9 sizeDone).block.rxState = .aaddr ∧ (at9 sizeDone).block.rxLen ≠ 0) := by decide

theorem witness_PayloadByteIsStoredOrOverruns :
    ((at9 nearFull).block.rxState = .apay ∧ (at9 nearFull).block.rxPos.val = 119 ∧
      (at9 nearFull).block.rxPos.val < 120) ∧
    ((at9 (full false)).block.rxState = .apay ∧ (at9 (full false)).block.rxPos.val = 120) := by
  decide

theorem witness_CrcHighByteIsLatched : (at9 hiNext).block.rxState = .acrch := by decide

theorem witness_CrcLowByteCompletesOrMismatches :
    (at9 loNext).block.rxState = .acrcl ∧
    ((at9 loNext).block.rxCrch ++ (0x6E : Byte) : Word) = (at9 loNext).block.rxCrc ∧
    ((at9 loNext).block.rxCrch ++ (0x6F : Byte) : Word) ≠ (at9 loNext).block.rxCrc := by decide

theorem witness_CommandIdRowsFollowTheClassTable : (at9 held).block.rxState = .acmd := by decide

/-- Each of the three framing errors is reported by some step. -/
theorem witness_FramingErrorResponse :
    (∃ t, exec (.rxbyte 0x06) (at9 idle) = .next t ∧ t.out.result = .errClass) ∧
    (∃ t, exec (.rxbyte 0x55) (at9 (full true)) = .next t ∧ t.out.result = .errOverrun) ∧
    (∃ t, exec (.rxbyte 0x6F) (at9 loNext) = .next t ∧ t.out.result = .errCrc) :=
  ⟨⟨_, rfl, rfl⟩, ⟨_, rfl, rfl⟩, ⟨_, rfl, rfl⟩⟩

/-- A timeout, and the right side of each cause's condition. -/
theorem witness_ErrorCausesAndTheirConditions :
    (∃ t, exec .rxtimeout (at9 mid) = .next t ∧ t.out.result = .timeout) ∧
    (takenByte (.rxbyte 0x06) = some 0x06 ∧ (at9 idle).block.rxState = .acmd ∧
      (0x06 : Byte).extractLsb' 1 2 = 0b11#2) ∧
    (takenByte (.rxbyte 0x55) = some 0x55 ∧ (at9 (full false)).block.rxState = .apay ∧
      (at9 (full false)).block.rxPos.val = 120) ∧
    (takenByte (.rxbyte 0x6F) = some 0x6F ∧ (at9 loNext).block.rxState = .acrcl ∧
      ((at9 loNext).block.rxCrch ++ (0x6F : Byte) : Word) ≠ (at9 loNext).block.rxCrc) :=
  ⟨⟨_, rfl, rfl⟩, by decide, by decide, by decide⟩

theorem witness_StatusIsSticky :
    (∃ t, exec .rxtimeout (at9 mid) = .next t) ∧ Instr.rxtimeout ≠ .stClear :=
  ⟨⟨_, rfl⟩, by decide⟩

/-- A byte taken in a state of the hardware, and a POR step. -/
theorem witness_TransitionTable :
    ((at9 mid).Inv ∧ ∃ t, exec (.rxbyte 0xBB) (at9 mid) = .next t) ∧
    ((at9 loNext).Inv ∧ ∃ t, exec (.rxbyte 0x6E) (at9 loNext) = .next t) ∧
    (∃ t, step { at9 mid with port := [{ por := true, ops := [] }] } = .next t) :=
  ⟨⟨inv_mid, _, rfl⟩, ⟨inv_loNext, _, rfl⟩, _, rfl⟩

/-- A completion, and a held frame that ST_READ leaves held. -/
theorem witness_ValidOnlyAfterACompletion :
    ((at9 loNext).Inv ∧ ∃ t, exec (.rxbyte 0x6E) (at9 loNext) = .next t ∧
      t.out.result = .complete) ∧
    ((at9 held).Inv ∧ (at9 held).block.rxValid = true ∧ takenByte .stRead = none ∧
      ∃ t, exec .stRead (at9 held) = .next t) :=
  ⟨⟨inv_loNext, _, rfl, rfl⟩, inv_held, rfl, rfl, _, rfl⟩

/-- One state and byte for each of the six clauses. -/
theorem witness_LatchesTakeTheirOwnByteOnly :
    (takenByte (.rxbyte 0x04) = some 0x04 ∧ (at9 idle).block.rxState = .acmd ∧
      (0x04 : Byte).extractLsb' 1 2 ≠ 0b11#2) ∧
    (takenByte (.rxbyte 0x06) = some 0x06 ∧ (0x06 : Byte).extractLsb' 1 2 = 0b11#2) ∧
    (takenByte (.rxbyte 0x07) = some 0x07 ∧ (at9 sizeDone).block.rxState = .aaddr) ∧
    (takenByte .nop = none ∧ (at9 mid).block.rxState ≠ .aaddr) ∧
    (takenByte (.rxbyte 0x16) = some 0x16 ∧ (at9 hiNext).block.rxState = .acrch) ∧
    (at9 mid).block.rxState ≠ .acrch ∧ (∃ t, exec (.rxbyte 0x04) (at9 idle) = .next t) :=
  ⟨by decide, by decide, by decide, by decide, by decide, by decide, _, rfl⟩

/-- One state and byte for each of the five clauses. -/
theorem witness_LengthIsWrittenByHeaderBytesAndResets :
    (∃ t, exec (.rxbyte 0x6F) (at9 loNext) = .next t ∧ t.out.result = .errCrc) ∧
    (∃ t, exec (.rxbyte 0x04) (at9 held) = .next t ∧ (0x04 : Byte).extractLsb' 1 2 ≠ 0b01#2) ∧
    (∃ t, exec (.rxbyte 0x02) (at9 held) = .next t ∧ (0x02 : Byte).extractLsb' 1 2 = 0b01#2) ∧
    (∃ t, exec (.rxbyte 0xFF) (at9 sizeNext) = .next t ∧ sizeNext.rxState = .asize) ∧
    (∃ t, exec (.rxbyte 0xBB) (at9 mid) = .next t ∧
      t.out.result ∉ [Result.errClass, .errOverrun, .errCrc, .timeout] ∧
      (at9 mid).block.rxState ∉ [RxState.acmd, .asize]) :=
  ⟨⟨_, rfl, rfl⟩, ⟨_, rfl, by decide⟩, ⟨_, rfl, by decide⟩, ⟨_, rfl, rfl⟩, _, rfl, by decide,
    by decide⟩

/-- A store, an overrun, and a form that stores nothing. -/
theorem witness_OnlyPayloadBytesReachTheBuffer :
    (∃ t, exec (.rxbyte 0x77) (at9 nearFull) = .next t ∧ nearFull.rxState = .apay ∧
      nearFull.rxPos.val < 120) ∧
    (∃ t, exec (.rxbyte 0x55) (at9 (full false)) = .next t ∧ (full false).rxPos.val = 120) ∧
    (∃ t, exec (.bufRead 0) (at9 held) = .next t ∧ takenByte (.bufRead 0) = none) :=
  ⟨⟨_, rfl, by decide⟩, ⟨_, rfl, by decide⟩, _, rfl, rfl⟩

theorem witness_PurgeStrapNeverChanges :
    ∃ t, step { at9 (full true) with port := [{ por := true, ops := [] }] } = .next t := ⟨_, rfl⟩

/-- A step that asks for a purge, and the three other clauses' conditions. -/
theorem witness_PulseOutputsAreZeroUnlessDriven :
    (∃ t, exec (.rxbyte 0x55) (at9 (full true)) = .next t ∧ t.out.purgeReq = true) ∧
    (∃ t, exec (.bufRead 3) (at9 held) = .next t ∧ t.out.result = .range) ∧
    (Instr.nop ≠ .crc16Seed ∧ Instr.nop ≠ .stRead) :=
  ⟨⟨_, rfl, rfl⟩, ⟨_, rfl, rfl⟩, by decide⟩

theorem witness_ResultsAreThoseOfTheTable : ∃ t, exec (.bufRead 2) (at9 held) = .next t := ⟨_, rfl⟩

theorem witness_OutputsAndPortAreNotRead :
    (at9 held).block = (at9 held (Outputs.only .complete)).block ∧
    (∃ t, exec (.bufRead 2) (at9 held) = .next t) ∧
    ∃ t, exec (.bufRead 2) (at9 held (Outputs.only .complete)) = .next t :=
  ⟨rfl, ⟨_, rfl⟩, _, rfl⟩

theorem witness_DecodingIgnoresTheBuffer :
    (at9 mid).block =
      { (at9 { mid with rxBuf := [(0, 0x11)] }).block with rxBuf := (at9 mid).block.rxBuf } ∧
    (∃ t, exec (.rxbyte 0xBB) (at9 mid) = .next t) ∧
    ∃ t, exec (.rxbyte 0xBB) (at9 { mid with rxBuf := [(0, 0x11)] }) = .next t :=
  ⟨rfl, ⟨_, rfl⟩, _, rfl⟩

theorem witness_StepRunsTheDecodedOperation :
    (∃ s : State, s.port = { por := false, ops := [Code.op 0x042] } :: []) ∧
    decodeTableWord 40 0x042 = some (.rxbyte 0x04) :=
  ⟨⟨{ at9 idle with port := [{ por := false, ops := [.op 0x042] }] }, rfl⟩, by decide⟩

theorem witness_IdleStepIsNop :
    (at9 mid).port = [] ∧ ∃ s : State, s.port = { por := false, ops := [] } :: [] :=
  ⟨rfl, { at9 mid with port := [{ por := false, ops := [] }] }, rfl⟩

theorem witness_PowerOnResetOverridesOperations :
    ∃ (s : State) (p : PortInput), s.port = p :: [] ∧ p.por = true ∧ p.ops ≠ [] :=
  ⟨{ at9 mid with port := [{ por := true, ops := [.op 0x3] }] }, ⟨true, [.op 0x3]⟩, rfl, rfl,
    by decide⟩

/-- Overlapping operations are refused; one operation is not. -/
theorem witness_OnlyOverlappingOperationsStop :
    step { at9 mid with port := [{ por := false, ops := [.op 0x0, .op 0x1] }] } =
      .refused .overlappingOperations ∧
    (∃ t, step { at9 mid with port := [{ por := false, ops := [.op 0x1] }] } = .next t) :=
  ⟨rfl, _, rfl⟩

theorem witness_EveryStepKeepsTheInvariants :
    State.Inv { at9 mid with port := [{ por := false, ops := [.op 0x0AA2] }] } ∧
    (∃ t, step { at9 mid with port := [{ por := false, ops := [.op 0x0AA2] }] } = .next t) ∧
    ∃ t, stepFor addStep { at9 mid with port := [{ por := false, ops := [.op 0x0AA2] }] } = .next t :=
  ⟨inv_mid, ⟨_, rfl⟩, _, rfl⟩

theorem witness_NoUnwrittenByteIsObserved :
    (at9 held).Inv ∧ ∃ t, exec (.bufRead 2) (at9 held) = .next t ∧ t.out.result = .ok :=
  ⟨inv_held, _, rfl, rfl⟩

/-- Each of the sixteen premises is met by a word: the word whose other fields are 0. -/
theorem witness_OperationCodesSelectTheirOperation :
    ∀ op : BitVec 4, (OpWord.ofFields op 0 0 0).extractLsb' 0 4 = op := by decide

theorem witness_EveryCodeFitsExactlyItsRow :
    opRow "NOP" 0x0 ∈ opcodeTable ∧ cmdIdRow "CMDID.BAD" 0x06 ∈ opcodeTable := by decide

/-- Two different words of RXBYTE 0x04 that meet the premises. -/
theorem witness_UnusedFieldsAreIgnored :
    (0x7FFFFF042 : OpWord) ≠ 0x000000042 ∧
    (0x7FFFFF042 : OpWord).extractLsb' 0 4 = (0x000000042 : OpWord).extractLsb' 0 4 ∧
    (0x7FFFFF042 : OpWord).extractLsb' 4 8 = (0x000000042 : OpWord).extractLsb' 4 8 ∧
    (0x7FFFFF042 : OpWord).extractLsb' 0 4 ≠ 0x8#4 ∧
    (0x7FFFFF042 : OpWord).extractLsb' 0 4 ≠ 0x6#4 := by decide

/-- A fixed class and the variable class. -/
theorem witness_FrameLayoutAndLength :
    (frame crc16Step ⟨0x00, 0x01, []⟩ = some [0x00, 0x01, 0xC0, 0x70] ∧
      (0x00 : Byte).extractLsb' 1 2 ≠ 0b10#2) ∧
    (frame crc16Step ⟨0x04, 0x01, []⟩ = some [0x04, 0x00, 0x01, 0xF1, 0xC1] ∧
      (0x04 : Byte).extractLsb' 1 2 = 0b10#2) ∧
    frame crc16Step ⟨0x06, 0x01, []⟩ = none := by decide

/-- In `APAY`, and in `ACRCL` after the CRC high byte. -/
theorem witness_RunningCrcTracksTheFrame :
    idle.rxState = .acmd ∧
    (∀ o ∈ (rxRun crc16Step [0x02, 0x05, 0x12] idle).2, o.result = .pending) ∧
    (∀ o ∈ (rxRun crc16Step [0x00, 0x01, 0xC0] idle).2, o.result = .pending) ∧
    (rxRun crc16Step [0x00, 0x01, 0xC0] idle).1.rxState = .acrcl := by decide

/-- One list of bytes for each of the five lengths of R122. -/
theorem witness_FrameEndsWhereTheHeaderSays :
    idle.rxState = .acmd ∧ frameEnd [0x06] = some 1 ∧ frameEnd [0x00, 0x01, 0xC0, 0x70] = some 4 ∧
    frameEnd [0x02, 0x05, 0x12, 0x34, 0x1C, 0xEA] = some 6 ∧
    frameEnd (0x04 :: 0x78 :: List.replicate 123 0) = some 125 ∧
    frameEnd (0x04 :: 0x79 :: List.replicate 122 0) = some 124 := by decide +kernel

theorem witness_WellFormedFrameIsReceived :
    frame crc16Step ⟨0x02, 0x05, [0x12, 0x34]⟩ = some [0x02, 0x05, 0x12, 0x34, 0x1C, 0xEA] ∧
    held.rxState = .acmd := by decide

/-- A payload byte of a variable frame changed, under a step with `P1` and `P2`; and a trailer byte. -/
theorem witness_CorruptedFrameIsRejected :
    (∃ bs, frame addStep ⟨0x04, 0x07, [0xAA]⟩ = some bs ∧ idle.rxState = .acmd ∧ 3 < bs.length ∧
      bs[3]? ≠ some 0xAB ∧ (0x04 : Byte).extractLsb' 1 2 = 0b10#2 ∧ 3 ≠ 1 ∧ 3 + 2 < bs.length ∧
      InjectiveInByte addStep ∧ InjectiveInAccumulator addStep) ∧
    (∃ bs, frame addStep ⟨0x04, 0x07, [0xAA]⟩ = some bs ∧ 5 < bs.length ∧ bs[5]? ≠ some 0xFF ∧
      ¬ 5 + 2 < bs.length) :=
  ⟨⟨_, rfl, rfl, by decide, by decide, by decide, by decide, by decide, addStep_injectiveInByte,
    addStep_injectiveInAccumulator⟩, _, rfl, by decide, by decide, by decide⟩

/-- A completion; a held frame kept by an operation; an index inside and one past the end. -/
theorem witness_HeldFrameCanBeRead :
    ((at9 loNext).Inv ∧ ∃ t, exec (.rxbyte 0x6E) (at9 loNext) = .next t ∧
      t.out.result = .complete) ∧
    ((at9 held).block.HoldsFrame 0x04 0x07 [0xAA, 0xBB, 0xCC] ∧ takenByte .stClear = none ∧
      ∃ t, exec .stClear (at9 held) = .next t) ∧
    ([0xAA, 0xBB, 0xCC] : List Byte).length ≤ 120 ∧
    (2 : BitVec 7).toNat < ([0xAA, 0xBB, 0xCC] : List Byte).length ∧
    ([0xAA, 0xBB, 0xCC] : List Byte).length ≤ (3 : BitVec 7).toNat :=
  ⟨⟨inv_loNext, _, rfl, rfl⟩, ⟨holds_held, rfl, _, rfl⟩, by decide, by decide, by decide⟩

/-- A transport that delivers 125 bytes to a machine in `ACMD`. -/
theorem witness_ReceiveLoopEnds :
    (at9 idle).block.rxState = .acmd ∧
    ∀ k, k < 125 → ∃ b, (List.replicate 125 (some (0x00 : Byte)))[k]? = some (some b) :=
  ⟨rfl, fun k hk => ⟨0x00, by rw [List.getElem?_replicate, if_pos hk]⟩⟩

/-- Two sessions, one in mid-frame, one held, each with an operation at its port. -/
theorem witness_SessionsAreIndependent :
    ∃ (s u s' u' : State) (ss' : List State), [s, u][0]? = some s ∧ [s, u][1]? = some u ∧
      (1 : Nat) ≠ 0 ∧ stepFor addStep s = .next s' ∧ stepFor addStep u = .next u' ∧
      stepSession addStep 0 [s, u] = .next ss' :=
  ⟨(at9 mid).present (.op 0x1), (at9 held).present (.op 0x4), _, _, _, rfl, rfl, by decide, rfl, rfl,
    rfl⟩

/-- An operation that takes no byte, and one that is not CRC16.STEP. -/
theorem witness_CrcStepShowsOnlyInCrcValues :
    takenByte .stRead = none ∧ ∀ c b, Instr.rxbyte 0x04 ≠ .crc16Step c b :=
  ⟨rfl, fun _ _ h => by cases h⟩

theorem witness_PowerOnResetTakesOneInput :
    ∃ (s : State) (p q : PortInput), s.port = p :: [q] ∧ p.por = true :=
  ⟨{ at9 mid with port := [{ por := true, ops := [.op 0x3] }, { por := false, ops := [] }] },
    ⟨true, [.op 0x3]⟩, ⟨false, []⟩, rfl, rfl⟩

/-- Another value of `CRC16_STEP` changes the CRC and nothing else: `0xFFFF + 0x04 = 0x0003`. -/
theorem test_execFor :
    execFor addStep (.rxbyte 0x04) (at9 idle) =
      .next (at9 (tuple .asize 0 0x0003 0x04 0 0 0 false false) (Outputs.only .pending)) := by rfl

end Sys2Proof.Tests
end

section
/-! Proof of O57: what the open parameter `CRC16_STEP` can be seen in. Two values of it are compared on
one state, first for a byte taken by the receive machine, then for every instruction
(00_scope.md R4; 40_crc16.md R91). -/

namespace Sys2Proof.Machine

section
variable (f g : CrcStep) (i : Instr) (s : State)

/-! ## A byte taken by the receive machine -/

/-- A command-id byte writes the step's value to `rx_crc` only (41_rx_framing.md R111). -/
theorem acceptClass_agree_but_rxCrc (cl : PayloadClass) (b : Byte) (blk : Block) :
    acceptClass g cl b blk =
      { acceptClass f cl b blk with
        block := { (acceptClass f cl b blk).block with
          rxCrc := (acceptClass g cl b blk).block.rxCrc } } := by
  cases cl <;> rfl

/-- A payload byte writes the step's value to `rx_crc` only, and the overrun does not read it
(41_rx_framing.md R114). -/
theorem rxApay_agree_but_rxCrc (b : Byte) (blk : Block) :
    rxApay g b blk =
      { rxApay f b blk with
        block := { (rxApay f b blk).block with rxCrc := (rxApay g b blk).block.rxCrc } } := by
  by_cases h : blk.rxPos.val < Config.maxPayload
  · simp only [rxApay_store h]
  · have hfull : blk.rxPos.val = Config.maxPayload := by have := blk.rxPos.isLt; omega
    simp only [rxApay_overrun hfull]

/-- Two steps take a byte with the same outputs and the same registers but for `rx_crc`. In `ACRCH` and
`ACRCL` the step is not read at all; the comparison is with the `rx_crc` of the state before. -/
theorem rxByte_agree_but_rxCrc (b : Byte) (blk : Block) :
    rxByte g b blk =
      { rxByte f b blk with
        block := { (rxByte f b blk).block with rxCrc := (rxByte g b blk).block.rxCrc } } := by
  cases h : blk.rxState
  case acmd => simpa only [rxByte_acmd h] using acceptClass_agree_but_rxCrc f g _ b blk
  case asize => simp only [rxByte_asize h, rxAsize]
  case aaddr => simp only [rxByte_aaddr h, rxAaddr]
  case apay => simpa only [rxByte_apay h] using rxApay_agree_but_rxCrc f g b blk
  case acrch => simp only [rxByte_acrch h]
  case acrcl => simp only [rxByte_acrcl h]

theorem rxByte_block_agree_but_rxCrc (b : Byte) (blk : Block) :
    (rxByte g b blk).block =
      { (rxByte f b blk).block with rxCrc := (rxByte g b blk).block.rxCrc } :=
  congrArg Response.block (rxByte_agree_but_rxCrc f g b blk)

theorem rxByte_out_crcStep_irrelevant (b : Byte) (blk : Block) :
    (rxByte g b blk).out = (rxByte f b blk).out := by
  rw [rxByte_agree_but_rxCrc f g b blk]

/-! ## Every instruction -/

variable {i}

/-- Without a byte taken, no register depends on the step: CRC16.STEP drives an output only
(40_crc16.md R96). -/
theorem responseFor_block_crcStep_irrelevant (h : takenByte i = none) :
    (responseFor g i s).block = (responseFor f i s).block := by
  cases i
  case rxbyte | cmdidLen0 | cmdidLen2 | cmdidLenN | cmdidBad => cases h
  all_goals rfl

/-- No instruction but CRC16.STEP drives an output that depends on the step. -/
theorem responseFor_out_crcStep_irrelevant (h : ∀ c b, i ≠ .crc16Step c b) :
    (responseFor g i s).out = (responseFor f i s).out := by
  cases i
  case crc16Step c b => exact absurd rfl (h c b)
  case rxbyte | cmdidLen0 | cmdidLen2 | cmdidLenN | cmdidBad =>
    exact rxByte_out_crcStep_irrelevant f g _ _
  all_goals rfl

variable (i)

theorem responseFor_block_agree_but_rxCrc :
    (responseFor g i s).block =
      { (responseFor f i s).block with rxCrc := (responseFor g i s).block.rxCrc } := by
  cases h : takenByte i with
  | none => rw [responseFor_block_crcStep_irrelevant f g s h]
  | some b =>
    simpa only [responseFor_of_takenByte _ h] using rxByte_block_agree_but_rxCrc f g b s.block

theorem responseFor_out_agree_but_crcOut :
    (responseFor g i s).out =
      { (responseFor f i s).out with crcOut := (responseFor g i s).out.crcOut } := by
  by_cases h : ∃ c b, i = .crc16Step c b
  · obtain ⟨c, b, rfl⟩ := h
    rfl
  · rw [responseFor_out_crcStep_irrelevant f g s (fun c b hi => h ⟨c, b, hi⟩)]

end

/-- Settles O57: both machines answer with the response of the instruction, and the two responses agree
but for `rx_crc` and `crc_out`. -/
theorem crcStepShowsOnlyInCrcValues : Obligations.CrcStepShowsOnlyInCrcValues := by
  intro f g i s
  refine ⟨_, _, execFor_next.2 rfl, execFor_next.2 rfl, ?agree, ?block, ?out⟩
  case agree =>
    rw [← responseFor_block_agree_but_rxCrc f g i s, ← responseFor_out_agree_but_crcOut f g i s]
  case block => exact fun h => congrArg Block.rxCrc (responseFor_block_crcStep_irrelevant f g s h)
  case out => exact fun h => congrArg Outputs.crcOut (responseFor_out_crcStep_irrelevant f g s h)

end Sys2Proof.Machine
end

section
/-! Proofs of the family 10_state.md. Said once: what a byte taken does to each register, what an
operation does to the block and the outputs, and that every rule keeps the invariants of R25. Each
statement is then read off these lemmas. -/

namespace Sys2Proof.Machine

/-! ## A byte taken by the receive machine -/

/-! The bits of the two classes that the statements about registers single out (30_encoding.md
R66). -/

theorem payloadClass_eq_bad_iff (b : Byte) :
    payloadClass b = .bad ↔ b.extractLsb' 1 2 = 0b11#2 := by
  rcases payloadClass_cases b with ⟨hb, hc⟩ | ⟨hb, hc⟩ | ⟨hb, hc⟩ | ⟨hb, hc⟩ <;> simp [hb, hc]

theorem payloadClass_eq_len2_iff (b : Byte) :
    payloadClass b = .len2 ↔ b.extractLsb' 1 2 = 0b01#2 := by
  rcases payloadClass_cases b with ⟨hb, hc⟩ | ⟨hb, hc⟩ | ⟨hb, hc⟩ | ⟨hb, hc⟩ <;> simp [hb, hc]

/-- A byte taken raises a framing error, or it is pending or completes and leaves the status and the
strap alone (41_rx_framing.md R118). -/
theorem rxByte_raises_or_goes_on (f : CrcStep) (b : Byte) (blk : Block) :
    (∃ c : Cause, c.isFramingError = true ∧ rxByte f b blk = raiseError c blk) ∨
    (∃ r, (r = .pending ∨ r = .complete) ∧ (rxByte f b blk).out = Outputs.only r ∧
      (rxByte f b blk).block.status = blk.status ∧
      (rxByte f b blk).block.cfgPurge = blk.cfgPurge) := by
  cases hst : blk.rxState
  case acmd =>
    rw [rxByte_acmd hst]
    cases payloadClass b
    case bad => exact .inl ⟨_, rfl, rfl⟩
    all_goals exact .inr ⟨_, .inl rfl, rfl, rfl, rfl⟩
  case asize => rw [rxByte_asize hst]; exact .inr ⟨_, .inl rfl, rfl, rfl, rfl⟩
  case aaddr => rw [rxByte_aaddr hst]; exact .inr ⟨_, .inl rfl, rfl, rfl, rfl⟩
  case apay =>
    rw [rxByte_apay hst, rxApay]
    split
    · exact .inr ⟨_, .inl rfl, rfl, rfl, rfl⟩
    · exact .inl ⟨_, rfl, rfl⟩
  case acrch => rw [rxByte_acrch hst]; exact .inr ⟨_, .inl rfl, rfl, rfl, rfl⟩
  case acrcl =>
    rw [rxByte_acrcl hst, rxAcrcl]
    split
    · exact .inr ⟨_, .inr rfl, rfl, rfl, rfl⟩
    · exact .inl ⟨_, rfl, rfl⟩

/-- The three latches and the buffer, each with the one state whose rule writes it (10_state.md
R14, R15, R17, R18). -/
theorem rxByte_latches_and_buffer (f : CrcStep) (b : Byte) (blk : Block) :
    (rxByte f b blk).block.rxCmdid =
      (if blk.rxState = .acmd ∧ payloadClass b ≠ .bad then b else blk.rxCmdid) ∧
    (rxByte f b blk).block.rxAddr = (if blk.rxState = .aaddr then b else blk.rxAddr) ∧
    (rxByte f b blk).block.rxCrch = (if blk.rxState = .acrch then b else blk.rxCrch) ∧
    (rxByte f b blk).block.rxBuf =
      (if blk.rxState = .apay ∧ blk.rxPos.val < Config.maxPayload then
        blk.rxBuf.write blk.rxPos.val b else blk.rxBuf) := by
  cases hst : blk.rxState
  case acmd => rw [rxByte_acmd hst]; cases payloadClass b <;> simp [acceptClass]
  case asize => simp [rxByte_asize hst]
  case aaddr => simp [rxByte_aaddr hst]
  case apay => rw [rxByte_apay hst, rxApay]; split <;> simp [*]
  case acrch => simp [rxByte_acrch hst]
  case acrcl => rw [rxByte_acrcl hst, rxAcrcl]; split <;> simp

/-- The results of the four causes (60_exceptions.md R160). -/
abbrev causeResults : List Result := [.errClass, .errOverrun, .errCrc, .timeout]

theorem Cause.result_mem (c : Cause) : c.result ∈ causeResults := by
  cases c <;> simp [Cause.result]

theorem mem_causeResults_of_framing {r : Result}
    (h : r ∈ [Result.errClass, .errOverrun, .errCrc]) : r ∈ causeResults := by
  revert r
  decide

theorem notMem_causeResults {r : Result} (h : r ∈ [Result.ok, .range, .badop]) :
    r ∉ causeResults := by
  revert r
  decide

theorem Cause.result_mem_framing {c : Cause} (h : c.isFramingError = true) :
    c.result ∈ [Result.errClass, .errOverrun, .errCrc] := by
  cases c
  case eTimeout => cases h
  all_goals simp [Cause.result]

/-! ## The invariants -/

/-- An idle block that holds no frame is left with the invariants of the buffer's form and the
status. -/
theorem Block.Inv.of_idle {b : Block} (hst : b.rxState = .acmd) (hpos : b.rxPos.val = 0)
    (hv : b.rxValid = false) (hbuf : b.rxBuf.wf = true)
    (hq : b.status.nodev = false ∧ b.status.bus = false ∧ b.status.param = false ∧
      b.status.len = false) : b.Inv := by
  constructor <;> simp [hst, hpos, hv, hbuf, hq]

theorem Block.Inv.not_valid {b : Block} (h : b.Inv) (hst : b.rxState ≠ .acmd) :
    b.rxValid = false :=
  Bool.eq_false_iff.2 fun hv => hst (h.held hv).1

theorem sessionReset_inv {b : Block} (h : b.Inv) : b.sessionReset.Inv :=
  .of_idle rfl rfl rfl h.bufWf h.quiet

theorem raiseError_inv (c : Cause) {b : Block} (h : b.Inv) : (raiseError c b).block.Inv :=
  .of_idle rfl rfl rfl h.bufWf h.quiet

theorem por_inv (strap : Bool) : (Block.por strap).Inv :=
  .of_idle rfl rfl rfl rfl ⟨rfl, rfl, rfl, rfl⟩

theorem acceptCmd_inv (f : CrcStep) {b len : Byte} {next : RxState} {blk : Block} (h : blk.Inv)
    (hclass : payloadClass b ≠ .bad)
    (hnext : next = .asize ∧ payloadClass b = .lenN ∨
      next = .aaddr ∧ (payloadClass b = .len0 → len = 0) ∧ (payloadClass b = .len2 → len = 2)) :
    (acceptCmd f b len next blk).block.Inv := by
  rcases hnext with ⟨rfl, hN⟩ | ⟨rfl, h0, h2⟩
  · exact
      { bufWf := h.bufWf, payBelow := nofun, crcExact := nofun, headZero := fun _ => rfl,
        held := nofun, fixedZero := nofun, fixedTwo := nofun, classKnown := fun _ => hclass,
        sizeClass := fun _ => hN, quiet := h.quiet, stored := Memory.writtenBelow_zero _,
        heldStored := nofun }
  · exact
      { bufWf := h.bufWf, payBelow := nofun, crcExact := nofun, headZero := fun _ => rfl,
        held := nofun, fixedZero := fun _ => h0, fixedTwo := fun _ => h2,
        classKnown := fun _ => hclass, sizeClass := nofun, quiet := h.quiet,
        stored := Memory.writtenBelow_zero _, heldStored := nofun }

theorem acceptClass_inv (f : CrcStep) (b : Byte) {blk : Block} (h : blk.Inv) :
    (acceptClass f (payloadClass b) b blk).block.Inv := by
  cases hc : payloadClass b
  case len0 => exact acceptCmd_inv f h (by simp [hc]) (.inr ⟨rfl, by simp [hc]⟩)
  case len2 => exact acceptCmd_inv f h (by simp [hc]) (.inr ⟨rfl, by simp [hc]⟩)
  case lenN => exact acceptCmd_inv f h (by simp [hc]) (.inl ⟨rfl, hc⟩)
  case bad => exact raiseError_inv _ h

theorem rxAsize_inv (f : CrcStep) (b : Byte) {blk : Block} (h : blk.Inv)
    (hst : blk.rxState = .asize) : (rxAsize f b blk).block.Inv := by
  have hN : payloadClass blk.rxCmdid = .lenN := h.sizeClass hst
  have hpos : blk.rxPos.val = 0 := h.headZero (.inr (.inl hst))
  have hv : blk.rxValid = false := h.not_valid (by simp [hst])
  constructor <;> simp [hN, hpos, hv, h.bufWf, h.quiet]

theorem rxAaddr_inv (f : CrcStep) (b : Byte) {blk : Block} (h : blk.Inv)
    (hst : blk.rxState = .aaddr) : (rxAaddr f b blk).block.Inv := by
  have hclass : payloadClass blk.rxCmdid ≠ .bad := h.classKnown (by simp [hst])
  have hpos : blk.rxPos.val = 0 := h.headZero (.inr (.inr hst))
  have hv : blk.rxValid = false := h.not_valid (by simp [hst])
  by_cases hlen : blk.rxLen = 0#8
  · constructor <;> simp [hlen, hclass, hpos, hv, h.bufWf, h.quiet]
  · have hlenPos : 0 < blk.rxLen.toNat := by
      have : blk.rxLen.toNat ≠ 0 := fun h0 => hlen (BitVec.eq_of_toNat_eq h0)
      omega
    constructor <;> simp [hlen, hlenPos, hclass, hpos, hv, h.bufWf, h.quiet]

/-- The cursor stays below `rx_len` or meets it, and the byte it passes has just been written. -/
theorem rxApay_inv (f : CrcStep) (b : Byte) {blk : Block} (h : blk.Inv)
    (hst : blk.rxState = .apay) : (rxApay f b blk).block.Inv := by
  by_cases hcap : blk.rxPos.val < Config.maxPayload
  · have hclass : payloadClass blk.rxCmdid ≠ .bad := h.classKnown (by simp [hst])
    have hv : blk.rxValid = false := h.not_valid (by simp [hst])
    have hbuf := Memory.wf_write b h.bufWf hcap
    have hstored := Memory.writtenBelow_write_succ b h.stored
    have hbelow := h.payBelow hst
    rw [rxApay_store hcap]
    by_cases hlast : blk.rxPos.val + 1 = blk.rxLen.toNat
    · have hfits : blk.rxLen.toNat ≤ Config.maxPayload := hlast ▸ hcap
      constructor <;> simp [hlast, hfits, hclass, hv, hbuf, hlast ▸ hstored, h.quiet]
    · have hmore : blk.rxPos.val + 1 < blk.rxLen.toNat := by omega
      constructor <;> simp [hlast, hmore, hclass, hv, hbuf, hstored, h.quiet]
  · rw [rxApay, dif_neg hcap]
    exact raiseError_inv _ h

theorem rxAcrch_inv (b : Byte) {blk : Block} (h : blk.Inv) (hst : blk.rxState = .acrch) :
    (rxAcrch b blk).block.Inv := by
  have hclass : payloadClass blk.rxCmdid ≠ .bad := h.classKnown (by simp [hst])
  have hexact := h.crcExact (.inl hst)
  have hv : blk.rxValid = false := h.not_valid (by simp [hst])
  constructor <;> simp [hclass, hexact, hv, h.bufWf, h.quiet, hexact.1 ▸ h.stored]

/-- A completed frame is held: all `rx_len` of its payload bytes have been written. -/
theorem rxAcrcl_inv (b : Byte) {blk : Block} (h : blk.Inv) (hst : blk.rxState = .acrcl) :
    (rxAcrcl b blk).block.Inv := by
  by_cases hm : trailer blk.rxCrch b = blk.rxCrc
  · obtain ⟨hpos, hfits⟩ := h.crcExact (.inr hst)
    have hstored := hpos ▸ h.stored
    rw [rxAcrcl_match hm]
    constructor <;> simp [hfits, hstored, h.bufWf, h.quiet]
  · rw [rxAcrcl_mismatch hm]
    exact raiseError_inv _ h

theorem rxByte_inv (f : CrcStep) (b : Byte) {blk : Block} (h : blk.Inv) :
    (rxByte f b blk).block.Inv := by
  cases hst : blk.rxState
  case acmd => exact rxByte_acmd hst ▸ acceptClass_inv f b h
  case asize => exact rxByte_asize hst ▸ rxAsize_inv f b h hst
  case aaddr => exact rxByte_aaddr hst ▸ rxAaddr_inv f b h hst
  case apay => exact rxByte_apay hst ▸ rxApay_inv f b h hst
  case acrch => exact rxByte_acrch hst ▸ rxAcrch_inv b h hst
  case acrcl => exact rxByte_acrcl hst ▸ rxAcrcl_inv b h hst

/-! ## Every operation and every step -/

/-- The inversion lemma of `responseFor`: a byte taken, one of the three operations that write the
registers without one, or an operation that writes no register and raises nothing (10_state.md
R23). -/
theorem responseFor_cases (f : CrcStep) (i : Instr) (s : State) :
    (∃ b, takenByte i = some b ∧ responseFor f i s = rxByte f b s.block) ∨
    (i = .reset ∧
      responseFor f i s = { block := s.block.sessionReset, out := Outputs.only .ok }) ∨
    (i = .rxtimeout ∧ responseFor f i s = raiseError .eTimeout s.block) ∨
    (i = .stClear ∧ responseFor f i s =
      { block := { s.block with status := Status.clear }, out := Outputs.only .ok }) ∨
    (takenByte i = none ∧ i ≠ .reset ∧ i ≠ .rxtimeout ∧ i ≠ .stClear ∧
      (responseFor f i s).block = s.block ∧ (responseFor f i s).out.purgeReq = false ∧
      (responseFor f i s).out.result ∈ [Result.ok, .range, .badop]) := by
  cases i
  case rxbyte | cmdidLen0 | cmdidLen2 | cmdidLenN | cmdidBad => exact .inl ⟨_, rfl, rfl⟩
  case reset => exact .inr (.inl ⟨rfl, rfl⟩)
  case rxtimeout => exact .inr (.inr (.inl ⟨rfl, rfl⟩))
  case stClear => exact .inr (.inr (.inr (.inl ⟨rfl, rfl⟩)))
  case bufRead idx =>
    refine .inr (.inr (.inr (.inr ⟨rfl, nofun, nofun, nofun, rfl, ?_⟩)))
    cases h : s.block.holdsIndex idx <;> simp [responseFor, h]
  all_goals
    exact .inr (.inr (.inr (.inr ⟨rfl, nofun, nofun, nofun, rfl, rfl, by simp [responseFor]⟩)))

theorem responseFor_inv (f : CrcStep) (i : Instr) {s : State} (h : s.Inv) :
    (responseFor f i s).block.Inv := by
  rcases responseFor_cases f i s with
    ⟨b, -, hr⟩ | ⟨-, hr⟩ | ⟨-, hr⟩ | ⟨-, hr⟩ | ⟨-, -, -, -, hr, -, -⟩ <;> rw [hr]
  · exact rxByte_inv f b h
  · exact sessionReset_inv h
  · exact raiseError_inv _ h
  · exact { h with quiet := ⟨rfl, rfl, rfl, rfl⟩ }
  · exact h

/-- A step that answers a next state is POR or one operation. -/
theorem stepBy_next {ex : Instr → State → Host.Outcome State Fault Refusal} {s t : State}
    (h : s.stepBy ex = .next t) :
    t = s.takeInput.por ∨ ∃ i, ex i s.takeInput = .next t := by
  rcases stepBy_cases ex s with ⟨-, hs⟩ | ⟨p, rest, -, hs⟩
  · exact .inr ⟨_, hs ▸ h⟩
  · rcases hs with ⟨-, hs⟩ | ⟨-, -, hs⟩ | ⟨c, -, -, hs⟩ | ⟨-, -, hs⟩ <;> rw [hs] at h
    · exact .inl (Host.Outcome.next.inj h).symm
    · exact .inr ⟨_, h⟩
    · exact .inr ⟨_, h⟩
    · cases h

theorem stepFor_inv {f : CrcStep} {s t : State} (h : s.Inv) (hstep : stepFor f s = .next t) :
    t.Inv := by
  rcases stepBy_next hstep with rfl | ⟨i, hi⟩
  · exact por_inv _
  · rw [execFor_next.1 hi]
    exact responseFor_inv f i (s := s.takeInput) h

/-- Settles O39: each rule of the receive machine, each other operation and POR keep the
invariants. -/
theorem everyStepKeepsTheInvariants : Obligations.EveryStepKeepsTheInvariants :=
  ⟨fun _ _ h hstep => stepFor_inv h (step_eq_stepFor _ ▸ hstep), fun _ _ _ => stepFor_inv⟩

/-- Settles O40: the block of the reset state is that of POR with the strap of log entry 4. -/
theorem resetMeetsTheInvariants : Obligations.ResetMeetsTheInvariants :=
  por_inv Config.purgeOnError

/-- Settles O37: by the definition of the reset state. -/
theorem resetStateHasPowerOnValues : Obligations.ResetStateHasPowerOnValues := ⟨rfl, rfl⟩

/-! ## The status and the strap -/

/-- What R20 of 10_state.md lets an operation other than ST_CLEAR do to the status. -/
def Response.OrsComm (r : Response) (st : Status) : Prop :=
  r.block.status = { st with comm := st.comm || decide (r.out.result ∈ causeResults) }

theorem Response.orsComm_of_kept {r : Response} {st : Status} (hst : r.block.status = st)
    (hres : r.out.result ∉ causeResults) : r.OrsComm st := by
  rw [Response.OrsComm, decide_eq_false hres, Bool.or_false, hst]

theorem raiseError_orsComm (c : Cause) (blk : Block) : (raiseError c blk).OrsComm blk.status := by
  rw [Response.OrsComm, raiseError_result, decide_eq_true c.result_mem, Bool.or_true]
  rfl

theorem rxByte_orsComm (f : CrcStep) (b : Byte) (blk : Block) :
    (rxByte f b blk).OrsComm blk.status := by
  rcases rxByte_raises_or_goes_on f b blk with ⟨c, -, hc⟩ | ⟨r, hr, hout, hst, -⟩
  · rw [hc]
    exact raiseError_orsComm c blk
  · refine Response.orsComm_of_kept hst ?_
    rcases hr with rfl | rfl <;> simp [hout]

theorem responseFor_orsComm (f : CrcStep) {i : Instr} (s : State) (h : i ≠ .stClear) :
    (responseFor f i s).OrsComm s.block.status := by
  rcases responseFor_cases f i s with
    ⟨b, -, hr⟩ | ⟨-, hr⟩ | ⟨-, hr⟩ | ⟨hi, -⟩ | ⟨-, -, -, -, hblock, -, hres⟩
  · rw [hr]
    exact rxByte_orsComm f b s.block
  · exact Response.orsComm_of_kept (by simp [hr]) (by simp [hr])
  · rw [hr]
    exact raiseError_orsComm .eTimeout s.block
  · exact absurd hi h
  · exact Response.orsComm_of_kept (by rw [hblock]) (notMem_causeResults hres)

/-- Settles O23: a cause raised sets COMM by OR, and every other operation but ST_CLEAR keeps the
status and answers no error result. -/
theorem statusIsSticky : Obligations.StatusIsSticky := by
  intro i s t ht hclear
  obtain rfl := exec_next.1 ht
  exact responseFor_orsComm crc16Step s hclear

theorem responseFor_cfgPurge (f : CrcStep) (i : Instr) (s : State) :
    (responseFor f i s).block.cfgPurge = s.block.cfgPurge := by
  rcases responseFor_cases f i s with
    ⟨b, -, hr⟩ | ⟨-, hr⟩ | ⟨-, hr⟩ | ⟨-, hr⟩ | ⟨-, -, -, -, hr, -, -⟩ <;> rw [hr]
  · rcases rxByte_raises_or_goes_on f b s.block with ⟨c, -, hc⟩ | ⟨-, -, -, -, hp⟩
    · rw [hc, raiseError_cfgPurge]
    · exact hp
  · exact Block.sessionReset_cfgPurge _
  · exact raiseError_cfgPurge _ _

/-- Settles O29: POR takes the strap over, and no operation writes it. -/
theorem purgeStrapNeverChanges : Obligations.PurgeStrapNeverChanges := by
  intro s t hstep
  rcases stepBy_next hstep with rfl | ⟨i, hi⟩
  · rfl
  · rw [exec_next.1 hi]
    exact responseFor_cfgPurge crc16Step i s.takeInput

/-! ## `rx_valid` -/

/-- Under the invariants a byte taken leaves `rx_valid` 1 exactly when it completes a frame. -/
theorem rxByte_rxValid_iff (f : CrcStep) (b : Byte) {blk : Block} (h : blk.Inv) :
    (rxByte f b blk).block.rxValid = true ↔ (rxByte f b blk).out.result = .complete := by
  have hv : blk.rxState ≠ .acmd → blk.rxValid = false := h.not_valid
  cases hst : blk.rxState
  case acmd => rw [rxByte_acmd hst]; cases payloadClass b <;> simp [acceptClass, Cause.result]
  case asize => simp [rxByte_asize hst, hv, hst]
  case aaddr => simp [rxByte_aaddr hst, hv, hst]
  case apay => rw [rxByte_apay hst, rxApay]; split <;> simp [hv, hst, Cause.result]
  case acrch => simp [rxByte_acrch hst, hv, hst]
  case acrcl => rw [rxByte_acrcl hst, rxAcrcl]; split <;> simp [Cause.result]

/-- Settles O25: only a completion sets `rx_valid`; every byte taken, RESET and RXTIMEOUT clear
it, and the other operations keep it. -/
theorem validOnlyAfterACompletion : Obligations.ValidOnlyAfterACompletion := by
  intro i s t hinv ht
  obtain rfl := exec_next.1 ht
  rcases responseFor_cases crc16Step i s with
    ⟨b, hb, hr⟩ | ⟨rfl, hr⟩ | ⟨rfl, hr⟩ | ⟨rfl, hr⟩ | ⟨hb, hreset, htime, -, hblock, -, hres⟩
  · simp [hr, hb, rxByte_rxValid_iff crc16Step b hinv]
  · simp [hr]
  · simp [hr, Cause.result]
  · simp [hr, takenByte]
  · have hne : (response i s).out.result ≠ .complete := fun h => by simp [h] at hres
    simp [hblock, hb, hreset, htime, hne]

/-! ## The latches, the length and the buffer -/

/-- An operation that takes no byte keeps the three latches and the buffer. -/
theorem responseFor_latches_of_no_byte (f : CrcStep) {i : Instr} (s : State)
    (h : takenByte i = none) :
    (responseFor f i s).block.rxCmdid = s.block.rxCmdid ∧
    (responseFor f i s).block.rxAddr = s.block.rxAddr ∧
    (responseFor f i s).block.rxCrch = s.block.rxCrch ∧
    (responseFor f i s).block.rxBuf = s.block.rxBuf := by
  rcases responseFor_cases f i s with
    ⟨b, hb, -⟩ | ⟨-, hr⟩ | ⟨-, hr⟩ | ⟨-, hr⟩ | ⟨-, -, -, -, hr, -, -⟩
  · simp [h] at hb
  all_goals simp [hr]

/-- Settles O26: a byte taken writes the latch of the state it is taken in; without one no latch is
written. -/
theorem latchesTakeTheirOwnByteOnly : Obligations.LatchesTakeTheirOwnByteOnly := by
  intro i s t ht
  obtain rfl := exec_next.1 ht
  cases hb : takenByte i with
  | none =>
    obtain ⟨hcmd, haddr, hcrch, -⟩ := responseFor_latches_of_no_byte crc16Step s hb
    simp [hcmd, haddr, hcrch]
  | some b =>
    obtain ⟨hcmd, haddr, hcrch, -⟩ := rxByte_latches_and_buffer crc16Step b s.block
    simp only [response_of_takenByte hb, hcmd, haddr, hcrch, ne_eq, payloadClass_eq_bad_iff]
    grind

/-- Settles O28: a byte taken in `APAY` below the capacity is written at `rx_pos`; nothing else
writes the buffer. -/
theorem onlyPayloadBytesReachTheBuffer : Obligations.OnlyPayloadBytesReachTheBuffer := by
  intro i s t ht
  obtain rfl := exec_next.1 ht
  cases hb : takenByte i with
  | none =>
    obtain ⟨-, -, -, hbuf⟩ := responseFor_latches_of_no_byte crc16Step s hb
    simp [hbuf]
  | some b =>
    obtain ⟨-, -, -, hbuf⟩ := rxByte_latches_and_buffer crc16Step b s.block
    simp only [response_of_takenByte hb, hbuf]
    refine ⟨?_, ?_⟩
    · rintro _ ⟨⟩ hst hpos
      rw [if_pos ⟨hst, hpos⟩]
      exact ⟨Memory.read_write_same _ _ _, fun _ ha => Memory.read_write_other _ _ ha⟩
    · intro h a
      rw [if_neg]
      rintro ⟨hst, hpos⟩
      simp only [hst, reduceCtorEq, ne_eq, not_true, false_or] at h
      exact absurd h (Nat.ne_of_lt hpos)

/-- A header byte writes `rx_len` by its state and class, a cause clears it, and every other byte
taken keeps it (10_state.md R16). -/
theorem rxByte_rxLen (f : CrcStep) (b : Byte) (blk : Block) :
    (rxByte f b blk).block.rxLen =
      if blk.rxState = .acmd then (if payloadClass b = .len2 then 2 else 0)
      else if blk.rxState = .asize then b
      else if (rxByte f b blk).out.result ∈ causeResults then 0
      else blk.rxLen := by
  cases hst : blk.rxState
  case acmd => rw [rxByte_acmd hst]; cases payloadClass b <;> simp [acceptClass]
  case asize => simp [rxByte_asize hst]
  case aaddr => simp [rxByte_aaddr hst]
  case apay => rw [rxByte_apay hst, rxApay]; split <;> simp [Cause.result]
  case acrch => simp [rxByte_acrch hst]
  case acrcl => rw [rxByte_acrcl hst, rxAcrcl]; split <;> simp [Cause.result]

theorem responseFor_rxLen_of_clears (f : CrcStep) (i : Instr) (s : State)
    (h : i = .reset ∨ (responseFor f i s).out.result ∈ causeResults) :
    (responseFor f i s).block.rxLen = 0 := by
  rcases responseFor_cases f i s with
    ⟨b, hb, hr⟩ | ⟨-, hr⟩ | ⟨-, hr⟩ | ⟨rfl, hr⟩ | ⟨-, hi, -, -, -, -, hres⟩
  · rw [hr] at h ⊢
    rcases rxByte_raises_or_goes_on f b s.block with ⟨c, -, hc⟩ | ⟨r, hrr, hout, -, -⟩
    · rw [hc, raiseError_rxLen]
    · have hreset : i ≠ .reset := by rintro rfl; cases hb
      rcases hrr with rfl | rfl <;> simp [hreset, hout] at h
  · rw [hr, Block.sessionReset_rxLen]
  · rw [hr, raiseError_rxLen]
  · simp [hr] at h
  · exact absurd h (not_or.2 ⟨hi, notMem_causeResults hres⟩)

theorem responseFor_rxLen_of_no_byte (f : CrcStep) {i : Instr} (s : State)
    (hb : takenByte i = none) (hi : i ≠ .reset)
    (hres : (responseFor f i s).out.result ∉ causeResults) :
    (responseFor f i s).block.rxLen = s.block.rxLen := by
  rcases responseFor_cases f i s with
    ⟨b, hb', -⟩ | ⟨rfl, -⟩ | ⟨-, hr⟩ | ⟨-, hr⟩ | ⟨-, -, -, -, hr, -, -⟩
  · simp [hb] at hb'
  · exact absurd rfl hi
  · exact absurd (hr ▸ Cause.result_mem .eTimeout) hres
  · rw [hr]
  · rw [hr]

/-- Settles O27: the header bytes, RESET and the causes are the only writers of `rx_len`. -/
theorem lengthIsWrittenByHeaderBytesAndResets :
    Obligations.LengthIsWrittenByHeaderBytesAndResets := by
  intro i s t ht
  obtain rfl := exec_next.1 ht
  have hlen : ∀ b, takenByte i = some b →
      (response i s).block.rxLen = (rxByte crc16Step b s.block).block.rxLen := fun b hb => by
    rw [response_of_takenByte hb]
  refine ⟨responseFor_rxLen_of_clears crc16Step i s, ?acmd, ?acmdLen2, ?asize, ?kept⟩
  case acmd =>
    intro b hb hst hc
    simp only [hlen b hb, rxByte_rxLen, hst, payloadClass_eq_len2_iff, hc, if_true, if_false]
  case acmdLen2 =>
    intro b hb hst hc
    simp only [hlen b hb, rxByte_rxLen, hst, payloadClass_eq_len2_iff, hc, if_true]
  case asize =>
    intro b hb hst
    simp [hlen b hb, rxByte_rxLen, hst]
  case kept =>
    intro hi hres hor
    cases hb : takenByte i with
    | none => exact responseFor_rxLen_of_no_byte crc16Step s hb hi hres
    | some b =>
      simp only [response_of_takenByte hb] at hres
      have hst : s.block.rxState ≠ .acmd ∧ s.block.rxState ≠ .asize := by simpa [hb] using hor
      simp only [hlen b hb, rxByte_rxLen, hst, hres, if_false]

/-! ## The outputs -/

theorem rxByte_pulses_zero (f : CrcStep) (b : Byte) (blk : Block) :
    (rxByte f b blk).out.crcOut = 0 ∧ (rxByte f b blk).out.dout = 0 ∧
    (rxByte f b blk).out.stOut = Status.clear := by
  rcases rxByte_raises_or_goes_on f b blk with ⟨c, -, hc⟩ | ⟨r, -, hout, -, -⟩
  · simp [hc]
  · simp [hout]

/-- The three data outputs are 0 outside the operations that drive them (10_state.md R24). -/
theorem responseFor_pulses_zero (f : CrcStep) (i : Instr) (s : State) :
    ((i ≠ .crc16Seed ∧ ∀ c b, i ≠ .crc16Step c b) → (responseFor f i s).out.crcOut = 0) ∧
    (((∀ k, i ≠ .bufRead k) ∨ (responseFor f i s).out.result = .range) →
      (responseFor f i s).out.dout = 0) ∧
    (i ≠ .stRead → (responseFor f i s).out.stOut = Status.clear) := by
  cases i
  case rxbyte | cmdidLen0 | cmdidLen2 | cmdidLenN | cmdidBad =>
    obtain ⟨hcrc, hdout, hst⟩ := rxByte_pulses_zero f _ s.block
    exact ⟨fun _ => hcrc, fun _ => hdout, fun _ => hst⟩
  case bufRead idx => cases h : s.block.holdsIndex idx <;> simp [responseFor, h]
  all_goals simp [responseFor]

theorem raiseError_purgeReq_iff (c : Cause) (blk : Block) :
    (raiseError c blk).out.purgeReq = true ↔
      (raiseError c blk).out.result ∈ [Result.errClass, .errOverrun, .errCrc] ∧
        blk.cfgPurge = true := by
  cases c <;> simp [Cause.isFramingError, Cause.result]

/-- Only the framing errors ask for a purge, and only where the strap allows it (60_exceptions.md
R164). -/
theorem responseFor_purgeReq_iff (f : CrcStep) (i : Instr) (s : State) :
    (responseFor f i s).out.purgeReq = true ↔
      (responseFor f i s).out.result ∈ [Result.errClass, .errOverrun, .errCrc] ∧
        s.block.cfgPurge = true := by
  rcases responseFor_cases f i s with
    ⟨b, -, hr⟩ | ⟨-, hr⟩ | ⟨-, hr⟩ | ⟨-, hr⟩ | ⟨-, -, -, -, -, hp, hres⟩
  · rw [hr]
    rcases rxByte_raises_or_goes_on f b s.block with ⟨c, -, hc⟩ | ⟨r, hrr, hout, -, -⟩
    · rw [hc]
      exact raiseError_purgeReq_iff c s.block
    · rcases hrr with rfl | rfl <;> simp [hout]
  · simp [hr]
  · rw [hr]
    exact raiseError_purgeReq_iff .eTimeout s.block
  · simp [hr]
  · have hne : (responseFor f i s).out.result ∉ [Result.errClass, .errOverrun, .errCrc] :=
      fun h => notMem_causeResults hres (mem_causeResults_of_framing h)
    simp only [hp, hne, false_and, Bool.false_eq_true]

/-- Settles O30: the purge request by its condition, the data outputs by the operations that drive
them. -/
theorem pulseOutputsAreZeroUnlessDriven : Obligations.PulseOutputsAreZeroUnlessDriven := by
  intro i s t ht
  obtain rfl := exec_next.1 ht
  exact ⟨responseFor_purgeReq_iff crc16Step i s, responseFor_pulses_zero crc16Step i s⟩

theorem rxByte_result_mem (f : CrcStep) (b : Byte) (blk : Block) :
    (rxByte f b blk).out.result ∈
      [Result.pending, .complete, .errClass, .errOverrun, .errCrc] := by
  rcases rxByte_raises_or_goes_on f b blk with ⟨c, hframing, hc⟩ | ⟨r, hr, hout, -, -⟩
  · rw [hc, raiseError_result]
    exact List.mem_cons_of_mem _ (List.mem_cons_of_mem _ (c.result_mem_framing hframing))
  · rcases hr with rfl | rfl <;> simp [hout]

/-- Settles O31: the receive machine answers one of its five results, BUF_READ by whether the
index is held, every other operation its own result. -/
theorem resultsAreThoseOfTheTable : Obligations.ResultsAreThoseOfTheTable := by
  intro i s t ht
  obtain rfl := exec_next.1 ht
  cases i
  case rxbyte | cmdidLen0 | cmdidLen2 | cmdidLenN | cmdidBad =>
    exact rxByte_result_mem crc16Step _ s.block
  case bufRead idx => cases h : s.block.holdsIndex idx <;> simp [responseFor, h]
  all_goals rfl

/-- A response is computed from the block and the power cycle alone (10_state.md R23). -/
theorem responseFor_congr (f : CrcStep) (i : Instr) {s s' : State} (hblock : s.block = s'.block)
    (hcycle : s.powerCycles = s'.powerCycles) : responseFor f i s = responseFor f i s' := by
  cases i <;> simp only [responseFor, hblock, hcycle]

/-- Settles O32: both answers are the one response of the block and the power cycle. -/
theorem outputsAndPortAreNotRead : Obligations.OutputsAndPortAreNotRead := by
  intro i s s' t t' hblock hcycle ht ht'
  rw [exec_next.1 ht, exec_next.1 ht']
  have h := responseFor_congr crc16Step i hblock hcycle
  exact ⟨congrArg Response.block h, congrArg Response.out h⟩

/-- An index that is held names a location below `rx_len` of a frame whose payload was all
written. -/
theorem Block.Inv.read_of_holdsIndex {b : Block} (h : b.Inv) {idx : BitVec 7}
    (hidx : b.holdsIndex idx = true) (n : Nat) :
    b.rxBuf.read? idx.toNat = some (b.rxBuf.readByte n idx.toNat) := by
  simp only [Block.holdsIndex, Bool.and_eq_true, decide_eq_true_eq] at hidx
  obtain ⟨⟨hv, hlt⟩, -⟩ := hidx
  obtain ⟨v, hread⟩ := Option.isSome_iff_exists.1 (h.heldStored hv _ hlt)
  rw [hread, Memory.readByte_of_read hread]

/-- Settles O41: BUF_READ answers `R_OK` only at an index that is held. -/
theorem noUnwrittenByteIsObserved : Obligations.NoUnwrittenByteIsObserved := by
  intro s t idx hinv ht hok
  obtain rfl := exec_next.1 ht
  cases hidx : s.block.holdsIndex idx with
  | false => simp [responseFor, hidx] at hok
  | true =>
    simp only [responseFor, hidx, if_true]
    exact Block.Inv.read_of_holdsIndex hinv hidx _

end Sys2Proof.Machine
end

section
/-! Proofs of the family 20_memory.md: the decoding of a byte does not read the buffer (R53), and what is
presented at the operation port decides alone whether a step is refused (R50). -/

namespace Sys2Proof.Machine

/-! ## A byte taken does not read the buffer -/

/-- The block with other contents of the scratch buffer and every other register kept. -/
def Block.setBuf (blk : Block) (m : Memory) : Block := { blk with rxBuf := m }

/-- The response with other contents of the scratch buffer and the same outputs. -/
def Response.setBuf (r : Response) (m : Memory) : Response := { r with block := r.block.setBuf m }

section
variable (f : CrcStep) (b : Byte) (blk : Block) (m : Memory)

/-- A command-id byte does not reach the buffer (41_rx_framing.md R111). -/
theorem acceptClass_setBuf (cl : PayloadClass) :
    acceptClass f cl b (blk.setBuf m) = (acceptClass f cl b blk).setBuf m := by
  cases cl <;> rfl

/-- A payload byte is stored at `rx_pos`, or overruns, whatever the buffer holds (41_rx_framing.md
R114). -/
theorem rxApay_setBuf :
    ∃ m', rxApay f b (blk.setBuf m) = (rxApay f b blk).setBuf m' := by
  by_cases h : blk.rxPos.val < Config.maxPayload
  · exact ⟨m.write blk.rxPos.val b, by
      rw [rxApay_store h, rxApay_store (blk := blk.setBuf m) h]; rfl⟩
  · have hfull : blk.rxPos.val = Config.maxPayload := by have := blk.rxPos.isLt; omega
    exact ⟨m, by rw [rxApay_overrun hfull, rxApay_overrun (blk := blk.setBuf m) hfull]; rfl⟩

/-- The comparison with the trailer reads `rx_crc` and `rx_crch` only (41_rx_framing.md R116). -/
theorem rxAcrcl_setBuf : rxAcrcl b (blk.setBuf m) = (rxAcrcl b blk).setBuf m := by
  by_cases h : trailer blk.rxCrch b = blk.rxCrc
  · rw [rxAcrcl_match h, rxAcrcl_match (blk := blk.setBuf m) h]; rfl
  · rw [rxAcrcl_mismatch h, rxAcrcl_mismatch (blk := blk.setBuf m) h]; rfl

/-- Other contents of the buffer change what the buffer holds after a byte, and nothing else. -/
theorem rxByte_setBuf : ∃ m', rxByte f b (blk.setBuf m) = (rxByte f b blk).setBuf m' := by
  have hst : (blk.setBuf m).rxState = blk.rxState := rfl
  cases h : blk.rxState <;> rw [h] at hst
  case acmd =>
    rw [rxByte_acmd h, rxByte_acmd hst]
    exact ⟨m, acceptClass_setBuf f b blk m _⟩
  case asize => rw [rxByte_asize h, rxByte_asize hst]; exact ⟨m, rfl⟩
  case aaddr => rw [rxByte_aaddr h, rxByte_aaddr hst]; exact ⟨m, rfl⟩
  case apay => rw [rxByte_apay h, rxByte_apay hst]; exact rxApay_setBuf f b blk m
  case acrch => rw [rxByte_acrch h, rxByte_acrch hst]; exact ⟨m, rfl⟩
  case acrcl => rw [rxByte_acrcl h, rxByte_acrcl hst]; exact ⟨m, rxAcrcl_setBuf b blk m⟩

end

/-- Settles O33: both answers are the response to one byte, from blocks that differ in the buffer
only. -/
theorem decodingIgnoresTheBuffer : Obligations.DecodingIgnoresTheBuffer := by
  intro b s s' t t' hblock ht ht'
  obtain ⟨m', hm'⟩ := rxByte_setBuf crc16Step b s'.block s.block.rxBuf
  have h : response (.rxbyte b) s = (response (.rxbyte b) s').setBuf m' :=
    (congrArg (rxByte crc16Step b) hblock).trans hm'
  rw [exec_next.1 ht, exec_next.1 ht', h]
  exact ⟨rfl, rfl⟩

/-! ## The operation port -/

/-- Two or more operations are presented in the coming step, and POR is not asserted (20_memory.md
R50). -/
def State.Overlaps (s : State) : Prop :=
  ∃ p rest, s.port = p :: rest ∧ p.por = false ∧ 2 ≤ p.ops.length

theorem State.not_overlaps_nil {s : State} (h : s.port = []) : ¬ s.Overlaps := by
  simp [State.Overlaps, h]

theorem State.overlaps_cons_iff {s : State} {p : PortInput} {rest : List PortInput}
    (h : s.port = p :: rest) : s.Overlaps ↔ p.por = false ∧ 2 ≤ p.ops.length := by
  simp [State.Overlaps, h]

/-- No operation stops the machine: "all failures are returned as status values"
(60_exceptions.md). -/
theorem exec_answers (i : Instr) (s : State) : ∃ t, exec i s = .next t := ⟨_, exec_next.2 rfl⟩

/-- A step is refused at an overlap and answers a next state otherwise. -/
theorem step_refuses_or_answers (s : State) :
    (s.Overlaps ∧ step s = .refused .overlappingOperations) ∨
    (¬ s.Overlaps ∧ ∃ t, step s = .next t) := by
  rcases step_cases s with ⟨hp, hs⟩ | ⟨p, rest, hp, hs⟩
  · exact .inr ⟨State.not_overlaps_nil hp, hs ▸ exec_answers _ _⟩
  · rw [State.overlaps_cons_iff hp]
    rcases hs with ⟨hpor, hs⟩ | ⟨-, hops, hs⟩ | ⟨c, -, hops, hs⟩ | ⟨hpor, hlen, hs⟩
    · exact .inr ⟨by simp [hpor], _, hs⟩
    · exact .inr ⟨by simp [hops], hs ▸ exec_answers _ _⟩
    · exact .inr ⟨by simp [hops], hs ▸ exec_answers _ _⟩
    · exact .inl ⟨⟨hpor, hlen⟩, hs⟩

/-- Settles O38: a step is refused at an overlap, for that reason, and answers otherwise. -/
theorem onlyOverlappingOperationsStop : Obligations.OnlyOverlappingOperationsStop := by
  intro s
  change ((∃ r, step s = .refused r) ↔ s.Overlaps) ∧ _
  rcases step_refuses_or_answers s with ⟨hov, hs⟩ | ⟨hov, t, hs⟩ <;> simp [hs, hov]

end Sys2Proof.Machine
end

section
/-! Proofs of the family 30_encoding.md: decoding against encoding and the opcode table, the command-id
rows as received bytes, and the pseudo-operations FRAME, CRC16.BUF and RXFRAME. -/

namespace Sys2Proof

/-! ## Decoding an operation word -/

/-- Settles O43: each code selects the arm of `decodeOp` with its value. -/
theorem operationCodesSelectTheirOperation : Obligations.OperationCodesSelectTheirOperation := by
  intro w
  and_intros
  all_goals
    intro (h : w.op = _)
    simp only [decodeOp, h] <;> rfl

/-- Settles O45: the rows of RXBYTE, BUF_READ and CRC16.STEP read the fields the two words agree on; no
other row reads a field. -/
theorem unusedFieldsAreIgnored : Obligations.UnusedFieldsAreIgnored := by
  intro v w (hop : v.op = w.op) hdin hcrc hidx
  unfold decodeOp
  rw [hop]
  split
  case h_3 h => exact congrArg Instr.rxbyte (hdin (.inl (hop.trans h)))
  case h_7 h => exact congrArg Instr.bufRead (hidx (hop.trans h))
  case h_9 h => exact congrArg₂ Instr.crc16Step (hcrc (hop.trans h)) (hdin (.inr (hop.trans h)))
  all_goals rfl

/-- Settles O46: each word is short enough to be evaluated. -/
theorem writtenWordsDecode : Obligations.WrittenWordsDecode := by
  unfold Obligations.WrittenWordsDecode
  decide

/-! ## Decoding and encoding -/

theorem bits_payloadClass (b : Byte) : (payloadClass b).bits = b.extractLsb' 1 2 := by
  rcases payloadClass_cases b with ⟨hb, hc⟩ | ⟨hb, hc⟩ | ⟨hb, hc⟩ | ⟨hb, hc⟩ <;>
    simp [hb, hc, PayloadClass.bits]

/-- A command-id byte is the concatenation of its three fields (30_encoding.md R65). -/
theorem cmdIdByte_fields (b : Byte) : cmdIdByte (cmdNum b) (payloadClass b) (replyBit b) = b := by
  apply BitVec.eq_of_toNat_eq
  simp only [toNat_cmdIdByte, bits_payloadClass, cmdNum, replyBit, BitVec.extractLsb'_toNat,
    Nat.shiftRight_eq_div_pow]
  omega

theorem encode_decodeCmdId (b : Byte) : encode (decodeCmdId b) = .cmdId b := by
  have h := cmdIdByte_fields b
  cases hc : payloadClass b <;> rw [hc] at h <;> simp only [decodeCmdId, hc, encode, h]

theorem decode_encode (i : Instr) : decode (encode i) = i := by
  cases i
  case cmdidLen0 | cmdidLen2 | cmdidLenN | cmdidBad => simp [encode, decode, decodeCmdId]
  all_goals simp [encode, decode, decodeOp]

/-- Settles O42: both round trips. -/
theorem decodeOfEncodeIsIdentity : Obligations.DecodeOfEncodeIsIdentity :=
  ⟨decode_encode, encode_decodeCmdId⟩

/-! ## The opcode table -/

/-- The bits of a code that the mask of its format selects (spec/opcode_table.json), the others 0. -/
def Code.masked : Code → Code
  | .op w => .op (w.op.setWidth 35)
  | .cmdId b => .cmdId (b &&& 0x06)

/-- Each row of the table is of format `OP` or of format `CMDID`. -/
theorem opcodeTable_formats {row : OpcodeRow} (h : row ∈ opcodeTable) :
    (∃ name code, row = opRow name code) ∨ ∃ name p, row = cmdIdRow name p := by
  fin_cases h
  iterate 16 exact .inl ⟨_, _, rfl⟩
  all_goals exact .inr ⟨_, _, rfl⟩

/-- The rows of one format share its mask, so fitting a row is an equation on its pattern. -/
theorem OpcodeRow.fits_iff_masked {row : OpcodeRow} (h : row ∈ opcodeTable) (c : Code) :
    row.fits c = true ↔ c.masked = row.pattern := by
  rcases opcodeTable_formats h with ⟨name, code, rfl⟩ | ⟨name, p, rfl⟩ <;> cases c <;>
    simp [OpcodeRow.fits, opRow, cmdIdRow, Code.masked, ← OpWord.mask_eq_op]

/-- Encoding again may change the fields an operation does not use, never the operation code. -/
theorem encode_decodeOp (w : OpWord) :
    ∃ din crcIn idx, encode (decodeOp w) = .op (OpWord.ofFields w.op din crcIn idx) := by
  rcases OpWord.op_cases w with h | h | h | h | h | h | h | h | h | h | h | h | h | h | h | h <;>
    simp only [decodeOp, h] <;> exact ⟨_, _, _, rfl⟩

theorem masked_encode_decode (c : Code) : (encode (decode c)).masked = c.masked := by
  cases c with
  | op w =>
    obtain ⟨din, crcIn, idx, h⟩ := encode_decodeOp w
    simp [decode, h, Code.masked]
  | cmdId b => rw [decode, encode_decodeCmdId]

theorem opcodeTable_patterns_nodup : (opcodeTable.map OpcodeRow.pattern).Nodup := by decide

theorem opcodeTable_mnemonics_nodup : (opcodeTable.map OpcodeRow.mnemonic).Nodup := by decide

/-- The lemmas per instruction, assembled. -/
theorem Laws.FitsItsRow.of_instr (i : Instr) : Laws.FitsItsRow.Statement i := by
  cases i
  exacts [nop, reset, rxbyte _, rxtimeout, stRead, stClear, bufRead _, crc16Seed, crc16Step _ _,
    reserved9, reservedA, reservedB, reservedC, reservedD, reservedE, reservedF, cmdidLen0 _ _,
    cmdidLen2 _ _, cmdidLenN _ _, cmdidBad _ _]

/-- A code fits the row with the mnemonic of the instruction it decodes to. -/
theorem Code.fits_its_row (c : Code) :
    ∃ row ∈ opcodeTable, row.mnemonic = (decode c).mnemonic ∧ row.fits c = true := by
  obtain ⟨row, hmem, hname, hfits⟩ := Laws.FitsItsRow.of_instr (decode c)
  rw [OpcodeRow.fits_iff_masked hmem, masked_encode_decode] at hfits
  exact ⟨row, hmem, hname, (OpcodeRow.fits_iff_masked hmem c).2 hfits⟩

/-- Settles O44: a code fits its own row; two rows it fits have one pattern, and two rows of one
mnemonic are one row. -/
theorem everyCodeFitsExactlyItsRow : Obligations.EveryCodeFitsExactlyItsRow := by
  refine ⟨fun c => ?fits, fun c row hmem => ?own, opcodeTable_mnemonics_nodup⟩
  all_goals obtain ⟨own, hown, hname, hfits⟩ := c.fits_its_row
  case fits => exact ⟨own, hown, hfits⟩
  case own =>
    rw [← hname]
    constructor
    · intro h
      rw [OpcodeRow.fits_iff_masked hmem] at h
      rw [OpcodeRow.fits_iff_masked hown] at hfits
      rw [List.inj_on_of_nodup_map opcodeTable_patterns_nodup hmem hown (h.symm.trans hfits)]
    · intro h
      rwa [List.inj_on_of_nodup_map opcodeTable_mnemonics_nodup hmem hown h]

end Sys2Proof

namespace Sys2Proof.Machine

/-! ## The command-id rows -/

theorem takenByte_decodeCmdId (b : Byte) : takenByte (decodeCmdId b) = some b := by
  have h := cmdIdByte_fields b
  cases hc : payloadClass b <;> rw [hc] at h <;> simp only [decodeCmdId, hc, takenByte, h]

/-- Settles O20: the row gives the receive machine the byte it was decoded from. -/
theorem commandIdRowsAreReceivedBytes : Obligations.CommandIdRowsAreReceivedBytes := by
  intro b s
  rw [exec_eq_respond, exec_eq_respond, response_of_takenByte (takenByte_decodeCmdId b),
    response_of_takenByte rfl]

/-- In `ACMD` an instruction that gives a byte of class `cl` follows the row of that class
(30_encoding.md R66). -/
theorem exec_of_cmdIdByte_acmd {i : Instr} {s : State} (n : BitVec 5) (cl : PayloadClass)
    (r : BitVec 1) (hb : takenByte i = some (cmdIdByte n cl r)) (hst : s.block.rxState = .acmd) :
    exec i s = s.respond (acceptClass crc16Step cl (cmdIdByte n cl r) s.block) := by
  rw [exec_eq_respond, response_of_takenByte hb, rxByte_acmd hst, payloadClass_cmdIdByte]

/-- Settles O19: each row is `acceptClass` of its class. -/
theorem commandIdRowsFollowTheClassTable : Obligations.CommandIdRowsFollowTheClassTable := by
  intro s n r hst
  exact ⟨exec_of_cmdIdByte_acmd n .len0 r rfl hst, exec_of_cmdIdByte_acmd n .len2 r rfl hst,
    exec_of_cmdIdByte_acmd n .lenN r rfl hst, exec_of_cmdIdByte_acmd n .bad r rfl hst⟩

/-! ## FRAME -/

theorem payloadClass_eq_lenN_iff (b : Byte) :
    payloadClass b = .lenN ↔ b.extractLsb' 1 2 = 0b10#2 := by
  rcases payloadClass_cases b with ⟨hb, hc⟩ | ⟨hb, hc⟩ | ⟨hb, hc⟩ | ⟨hb, hc⟩ <;> simp [hb, hc]

/-- The `requires` clause, class by class (30_encoding.md R76). -/
theorem FrameCall.wellFormed_iff (c : FrameCall) :
    c.wellFormed = true ↔
      (c.cmd.extractLsb' 1 2 = 0b00#2 ∧ c.payload.length = 0) ∨
      (c.cmd.extractLsb' 1 2 = 0b01#2 ∧ c.payload.length = 2) ∨
      (c.cmd.extractLsb' 1 2 = 0b10#2 ∧ c.payload.length ≤ Config.maxPayload) := by
  rcases payloadClass_cases c.cmd with ⟨hb, -⟩ | ⟨hb, -⟩ | ⟨hb, -⟩ | ⟨hb, -⟩ <;>
    simp [FrameCall.wellFormed, hb]

theorem FrameCall.length_le_of_wellFormed {c : FrameCall} (h : c.wellFormed = true) :
    c.payload.length ≤ Config.maxPayload := by
  rw [FrameCall.wellFormed_iff] at h
  simp only [Config.maxPayload] at h ⊢
  omega

theorem frame_eq_none_iff (f : CrcStep) (c : FrameCall) :
    frame f c = none ↔ ¬ c.wellFormed = true := by simp [frame]

/-- The frame is its body and the CRC of the body, high byte first (30_encoding.md R76). -/
theorem frame_eq_some_iff (f : CrcStep) (c : FrameCall) (bs : List Byte) :
    frame f c = some bs ↔ c.wellFormed = true ∧
      bs = FrameCall.body c ++
        [hiByte (crc16Buf f (FrameCall.body c)), loByte (crc16Buf f (FrameCall.body c))] := by
  rw [@eq_comm _ bs]
  simp [frame]

/-- A fixed class has no length byte (30_encoding.md R76). -/
theorem FrameCall.body_of_fixed {c : FrameCall} (h : payloadClass c.cmd ≠ .lenN) :
    FrameCall.body c = [c.cmd, c.addr] ++ c.payload := by simp [FrameCall.body, h]

theorem FrameCall.body_of_lenN {c : FrameCall} (h : payloadClass c.cmd = .lenN) :
    FrameCall.body c = [c.cmd, BitVec.ofNat 8 c.payload.length, c.addr] ++ c.payload := by
  simp [FrameCall.body, h]

/-- Settles O47: the `requires` clause decides whether there is a frame, the class whether its body has
a length byte. -/
theorem frameLayoutAndLength : Obligations.FrameLayoutAndLength := by
  intro f c
  refine ⟨by rw [frame_eq_none_iff, FrameCall.wellFormed_iff], fun bs hbs => ?layout⟩
  obtain ⟨hwf, rfl⟩ := (frame_eq_some_iff f c bs).1 hbs
  rw [← payloadClass_eq_lenN_iff, ne_eq, ← payloadClass_eq_lenN_iff]
  refine ⟨fun hclass => ?fixed, fun hclass => ?lenN⟩
  case fixed =>
    rw [FrameCall.body_of_fixed hclass]
    exact ⟨_, rfl, rfl, by simp; omega⟩
  case lenN =>
    have hlen := FrameCall.length_le_of_wellFormed hwf
    rw [FrameCall.body_of_lenN hclass]
    refine ⟨_, _, ?_, rfl, rfl, by simp; omega⟩
    have hbyte : c.payload.length < 2 ^ 8 := Nat.lt_of_le_of_lt hlen (by decide)
    rw [BitVec.toNat_ofNat, Nat.mod_eq_of_lt hbyte]

/-! ## CRC16.BUF and RXFRAME on the machine -/

/-- From a state that shows `c` on `crc_out`, the steps show the fold that starts at `c`. -/
theorem crc16Steps_eq_foldl (f : CrcStep) (bs : List Byte) (c : Word) (s : State) :
    crc16Steps f bs { s with out := { Outputs.only .ok with crcOut := c } } =
      .next { s with out := { Outputs.only .ok with crcOut := bs.foldl f c } } := by
  induction bs generalizing c with
  | nil => rfl
  | cons b bs ih => rw [crc16Steps, execFor_eq_respond, andThen_respond]; exact ih (f c b)

/-- Settles O11: CRC16.SEED shows the seed, the steps fold from there. -/
theorem crcBufExpansionComputesTheFold : Obligations.CrcBufExpansionComputesTheFold := by
  intro f bs s
  rw [crc16BufRun, execFor_eq_respond, andThen_respond]
  exact crc16Steps_eq_foldl f bs Config.crc16Seed s

/-- Settles O48, by induction on the bytes: each RXBYTE answers its response and the run goes on from
there. -/
theorem rxframeRunsTheReceiveRules : Obligations.RxframeRunsTheReceiveRules := by
  intro f bs
  induction bs with
  | nil => exact fun s => ⟨s, rfl, rfl, rfl, rfl⟩
  | cons b bs ih =>
    intro s
    obtain ⟨t, hrun, hblock, hport, hcycles⟩ :=
      ih { s with block := (rxByte f b s.block).block, out := (rxByte f b s.block).out }
    refine ⟨t, ?_, hblock, hport, hcycles⟩
    rw [rxframe] at hrun ⊢
    rw [List.map_cons, issue_cons, responseFor, hrun]
    rfl

end Sys2Proof.Machine
end

section
/-! The CRC-16 engine (40_crc16.md): its two forms, its properties `P1` and `P2`, what they give for
`CRC16.BUF`, and its two operations. -/

namespace Sys2Proof.Machine

/-! ## The two bytes of the default step -/

/-- The new high byte (40_crc16.md R92: `hi = c[7:0] ^ T_HI[i]`). -/
theorem hiByte_crc16StepDefault (c : Word) (b : Byte) :
    hiByte (crc16StepDefault c b) = loByte c ^^^ hiByte (rom (hiByte c ^^^ b)) := by
  unfold crc16StepDefault hiByte
  generalize rom _ = r
  ext i hi
  simp [show 8 + i < 16 by omega, BitVec.getLsbD_eq_getElem hi]

/-- Equal steps looked up one table entry, since the low byte shows the index (40_crc16.md R92). -/
theorem index_eq_of_crc16StepDefault_eq {c c' : Word} {b b' : Byte}
    (h : crc16StepDefault c b = crc16StepDefault c' b') : hiByte c ^^^ b = hiByte c' ^^^ b' := by
  apply loByte_rom_injective
  rw [← loByte_crc16StepDefault, h, loByte_crc16StepDefault]

theorem crc16StepDefault_injectiveInByte : InjectiveInByte crc16StepDefault :=
  fun _ _ _ h => (BitVec.xor_right_inj _).1 (index_eq_of_crc16StepDefault_eq h)

/-- From the index one recovers the high byte, from the new high byte the low one. -/
theorem crc16StepDefault_injectiveInAccumulator : InjectiveInAccumulator crc16StepDefault := by
  intro b c c' h
  have hhi : hiByte c = hiByte c' := (BitVec.xor_left_inj b).1 (index_eq_of_crc16StepDefault_eq h)
  have hlo : loByte c = loByte c' := by
    have hnew := congrArg hiByte h
    rwa [hiByte_crc16StepDefault, hiByte_crc16StepDefault, hhi, BitVec.xor_left_inj] at hnew
  rw [← hiByte_append_loByte c, ← hiByte_append_loByte c', hhi, hlo]

/-- Settles O9: the low byte shows the index, and both properties follow from the index. -/
theorem defaultStepIsInjective : Obligations.DefaultStepIsInjective :=
  ⟨crc16StepDefault_injectiveInByte, crc16StepDefault_injectiveInAccumulator⟩

/-! ## The bit-serial form -/

theorem swapBytes_append (hi lo : Byte) : swapBytes (hi ++ lo) = lo ++ hi := by
  rw [swapBytes, loByte, hiByte, BitVec.extractLsb'_append_eq_left,
    BitVec.extractLsb'_append_eq_right]

theorem swapBytes_xor (v w : Word) : swapBytes (v ^^^ w) = swapBytes v ^^^ swapBytes w := by
  unfold swapBytes loByte hiByte
  rw [BitVec.xor_append, BitVec.extractLsb'_xor, BitVec.extractLsb'_xor]

/-- The conditional exclusive or goes by one bit of the word, so a round is linear. -/
theorem serialBit_xor (v w : Word) : serialBit (v ^^^ w) = serialBit v ^^^ serialBit w := by
  unfold serialBit
  rw [BitVec.getLsbD_xor, BitVec.ushiftRight_xor_distrib]
  cases v.getLsbD 0 <;> cases w.getLsbD 0
  case false.false => rfl
  case false.true => exact BitVec.xor_assoc _ _ _
  case true.false =>
    change (v >>> 1 ^^^ w >>> 1) ^^^ 0xA001 = (v >>> 1 ^^^ 0xA001) ^^^ w >>> 1
    ac_rfl
  case true.true =>
    change v >>> 1 ^^^ w >>> 1 = (v >>> 1 ^^^ 0xA001) ^^^ (w >>> 1 ^^^ 0xA001)
    calc v >>> 1 ^^^ w >>> 1
      _ = (v >>> 1 ^^^ w >>> 1) ^^^ (0xA001 ^^^ 0xA001) := by rw [BitVec.xor_self, BitVec.xor_zero]
      _ = _ := by ac_rfl

theorem serialBits_xor (n : Nat) (v w : Word) :
    serialBits n (v ^^^ w) = serialBits n v ^^^ serialBits n w := by
  induction n generalizing v w with
  | zero => rfl
  | succ n ih => rw [serialBits, serialBit_xor]; exact ih _ _

/-- Rounds whose low bit is 0 only shift. -/
theorem serialBits_of_low_bits_zero (n : Nat) (r : Word) (h : ∀ k < n, r.getLsbD k = false) :
    serialBits n r = r >>> n := by
  induction n generalizing r with
  | zero => rfl
  | succ n ih =>
    have hshift : serialBit r = r >>> 1 := by rw [serialBit, h 0 (by omega)]; rfl
    have hlow : ∀ k < n, (r >>> 1).getLsbD k = false := fun k hk => by
      rw [BitVec.getLsbD_ushiftRight]
      exact h _ (by omega)
    rw [serialBits, hshift, ih _ hlow, ← BitVec.shiftRight_add, Nat.add_comm]

/-- The low byte of the accumulator, in the high half, is shifted down unchanged. -/
theorem serialBits_append_zero (b : Byte) : serialBits 8 (b ++ 0#8) = 0#8 ++ b := by
  have hlow : ∀ k < 8, (b ++ 0#8).getLsbD k = false := fun k hk => by
    rw [BitVec.getLsbD_append, if_pos hk, BitVec.getLsbD_zero]
  rw [serialBits_of_low_bits_zero 8 _ hlow, BitVec.ushiftRight_eq_extractLsb'_of_lt (by decide)]
  exact congrArg (0#8 ++ ·) BitVec.extractLsb'_append_eq_left

/-- A byte in the low half of a word. -/
theorem setWidth_eq_zero_append (b : Byte) : b.setWidth 16 = 0#8 ++ b :=
  BitVec.setWidth_eq_append (by decide)

theorem setWidth_shiftLeft_eq_append_zero (b : Byte) : b.setWidth 16 <<< 8 = b ++ 0#8 := by
  have h : (b ++ 0#8).setWidth 16 = _ := BitVec.setWidth_append_eq_shiftLeft_setWidth_or
  rwa [BitVec.setWidth_eq, BitVec.setWidth_zero, BitVec.or_zero, eq_comm] at h

/-- Settles O8: the rounds are linear; on the table index they give the table entry, and the low byte of
the accumulator they move without a change. -/
theorem defaultStepEqualsBitSerial : Obligations.DefaultStepEqualsBitSerial := by
  intro c b
  have hreg : swapBytes c ^^^ b.setWidth 16 =
      (loByte c ++ 0#8) ^^^ (hiByte c ^^^ b).setWidth 16 := by
    rw [swapBytes, setWidth_eq_zero_append, setWidth_eq_zero_append, BitVec.xor_append,
      BitVec.xor_append, BitVec.xor_zero, BitVec.zero_xor]
  symm
  calc crc16StepSerial c b
    _ = swapBytes (serialBits 8 (loByte c ++ 0#8)) ^^^
          swapBytes (serialBits 8 ((hiByte c ^^^ b).setWidth 16)) := by
        rw [crc16StepSerial, hreg, serialBits_xor, swapBytes_xor]
    _ = (loByte c).setWidth 16 <<< 8 ^^^ rom (hiByte c ^^^ b) := by
        rw [serialBits_append_zero, swapBytes_append, rom_eq_serial,
          setWidth_shiftLeft_eq_append_zero]

/-! ## CRC16.BUF with one position changed -/

/-- Under `P2` the bytes that follow keep two different accumulators different. -/
theorem foldl_injectiveInAccumulator {f : CrcStep} (hf : InjectiveInAccumulator f) (bs : List Byte)
    {c c' : Word} (h : bs.foldl f c = bs.foldl f c') : c = c' := by
  induction bs generalizing c c' with
  | nil => exact h
  | cons b bs ih => exact hf b c c' (ih h)

theorem crc16Buf_set (f : CrcStep) {bs : List Byte} {k : Nat} (hk : k < bs.length) (b : Byte) :
    crc16Buf f (bs.set k b) = (bs.drop (k + 1)).foldl f (f (crc16Buf f (bs.take k)) b) := by
  rw [List.set_eq_take_append_cons_drop, if_pos hk, crc16Buf_append, List.foldl_cons]

/-- Settles O10: equal CRCs would give, by `P2`, equal accumulators after the position and so, by `P1`,
equal bytes at it. -/
theorem onePositionChangeChangesTheCrc : Obligations.OnePositionChangeChangesTheCrc := by
  intro f hP1 hP2 bs k b hk hne heq
  have hset : crc16Buf f (bs.set k b) = crc16Buf f (bs.set k bs[k]) := by
    rwa [List.set_getElem_self hk]
  rw [crc16Buf_set f hk, crc16Buf_set f hk] at hset
  have hbyte : b = bs[k] := hP1 _ _ _ (foldl_injectiveInAccumulator hP2 _ hset)
  exact hne (hbyte ▸ List.getElem?_eq_getElem hk)

/-! ## The operations, and the machine of the default step -/

/-- Settles O7: by the code of the word, and by the response of the instruction. -/
theorem crcOperationsShowSeedAndStep : Obligations.CrcOperationsShowSeedAndStep := by
  refine ⟨fun d c x => ⟨?seed, ?step⟩, fun s => exec_eq_respond _ s,
    fun s c b => exec_eq_respond _ s, fun f s c b => execFor_eq_respond f _ s⟩
  all_goals simp [decodeOp]

/-- Settles O56: the two steps are one function, and strap 0 gives the reset state of `core`. -/
theorem coreIsTheMachineOfTheDefaults : Obligations.CoreIsTheMachineOfTheDefaults := by
  have hstep : step = stepFor crc16Step := funext step_eq_stepFor
  have hreset : State.reset = State.resetFor Config.purgeOnError := rfl
  rw [Obligations.CoreIsTheMachineOfTheDefaults, coreFor, ← hreset, ← hstep, core]

end Sys2Proof.Machine
end

section
/-! Proofs of the family 41_rx_framing.md. First RXBYTE state by state and the transition table. Then the
invariant of a frame in reception, `Block.HasTaken`, which each pending byte keeps, and `Block.EndsAt`,
the three ways in which a byte ends a frame; the statements about whole frames and about RECV are read
off the two. Last, the held frame. -/

namespace Sys2Proof.Machine

/-! ## RXBYTE state by state, RXTIMEOUT -/

theorem payloadClass_eq_iff (b : Byte) (cl : PayloadClass) :
    payloadClass b = cl ↔ b.extractLsb' 1 2 = cl.bits := by
  rw [← bits_payloadClass]
  cases payloadClass b <;> cases cl <;> decide

theorem exec_rxbyte (b : Byte) (s : State) :
    exec (.rxbyte b) s = s.respond (rxByte crc16Step b s.block) := rfl

/-- In `ACMD` RXBYTE follows the class that the bits select. -/
theorem exec_rxbyte_acmd {s : State} {b : Byte} {cl : PayloadClass} (hst : s.block.rxState = .acmd)
    (hb : b.extractLsb' 1 2 = cl.bits) :
    exec (.rxbyte b) s = s.respond (acceptClass crc16Step cl b s.block) := by
  rw [exec_rxbyte, rxByte_acmd hst, (payloadClass_eq_iff b cl).2 hb]

/-- Settles O12: each class is an arm of `acceptClass`. -/
theorem commandByteIsTakenByItsClass : Obligations.CommandByteIsTakenByItsClass := by
  intro s b hst
  exact ⟨exec_rxbyte_acmd (cl := .len0) hst, exec_rxbyte_acmd (cl := .len2) hst,
    exec_rxbyte_acmd (cl := .lenN) hst, exec_rxbyte_acmd (cl := .bad) hst⟩

/-- Settles O13: `ASIZE` has the one rule `rxAsize`. -/
theorem lengthByteIsTakenAsItIs : Obligations.LengthByteIsTakenAsItIs := by
  intro s b hst
  rw [exec_rxbyte, rxByte_asize hst]
  rfl

/-- Settles O14: by whether a payload is declared. -/
theorem addressByteLeadsToPayloadOrTrailer : Obligations.AddressByteLeadsToPayloadOrTrailer := by
  intro s b hst
  rw [exec_rxbyte, rxByte_aaddr hst, rxAaddr]
  refine ⟨fun hlen => ?_, fun hlen => ?_⟩
  · rw [if_pos hlen]
    rfl
  · rw [if_neg hlen]
    rfl

/-- Settles O15: by whether the cursor has reached the capacity. -/
theorem payloadByteIsStoredOrOverruns : Obligations.PayloadByteIsStoredOrOverruns := by
  intro s b hst
  rw [exec_rxbyte, rxByte_apay hst]
  refine ⟨fun hcap => ?store, fun hfull => ?overrun⟩
  case store =>
    rw [rxApay_store hcap]
    exact ⟨_, rfl, rfl, rfl, Memory.read_write_same _ _ _, fun _ ha => Memory.read_write_other _ _ ha⟩
  case overrun =>
    rw [rxApay_overrun hfull]
    rfl

/-- Settles O16: `ACRCH` has the one rule `rxAcrch`. -/
theorem crcHighByteIsLatched : Obligations.CrcHighByteIsLatched := by
  intro s b hst
  rw [exec_rxbyte, rxByte_acrch hst]
  rfl

/-- Settles O17: by the comparison. -/
theorem crcLowByteCompletesOrMismatches : Obligations.CrcLowByteCompletesOrMismatches := by
  intro s b hst
  rw [exec_rxbyte, rxByte_acrcl hst]
  refine ⟨fun hm => ?_, fun hm => ?_⟩
  · rw [rxAcrcl_match hm]
    rfl
  · rw [rxAcrcl_mismatch hm]
    rfl

/-- Settles O18: RXTIMEOUT answers the error response of `E_TIMEOUT`. -/
theorem timeoutResetsAndSetsComm : Obligations.TimeoutResetsAndSetsComm :=
  ⟨fun d c x => by simp [decodeOp], fun s => exec_eq_respond .rxtimeout s⟩

/-! ## The transition table -/

theorem step_of_por {s : State} {p : PortInput} {rest : List PortInput} (hport : s.port = p :: rest)
    (hpor : p.por = true) : step s = .next s.takeInput.por := by
  simp [step, State.stepBy, State.fetch, hport, PortInput.request, hpor]

/-- The rows of a command-id byte (41_rx_framing.md R118). -/
theorem rxByte_row_acmd (f : CrcStep) (b : Byte) {blk : Block} (hst : blk.rxState = .acmd) :
    ((b.extractLsb' 1 2 = 0b00#2 ∨ b.extractLsb' 1 2 = 0b01#2) ∧
      (rxByte f b blk).block.rxState = .aaddr ∧ (rxByte f b blk).out.result = .pending) ∨
    (b.extractLsb' 1 2 = 0b10#2 ∧
      (rxByte f b blk).block.rxState = .asize ∧ (rxByte f b blk).out.result = .pending) ∨
    (b.extractLsb' 1 2 = 0b11#2 ∧
      (rxByte f b blk).block.rxState = .acmd ∧ (rxByte f b blk).out.result = .errClass) := by
  rcases payloadClass_cases b with ⟨hb, hc⟩ | ⟨hb, hc⟩ | ⟨hb, hc⟩ | ⟨hb, hc⟩ <;>
    rw [rxByte_acmd hst, hc]
  · exact .inl ⟨.inl hb, rfl, rfl⟩
  · exact .inl ⟨.inr hb, rfl, rfl⟩
  · exact .inr (.inl ⟨hb, rfl, rfl⟩)
  · exact .inr (.inr ⟨hb, rfl, rfl⟩)

theorem rxByte_row_aaddr (f : CrcStep) (b : Byte) {blk : Block} (hst : blk.rxState = .aaddr) :
    (blk.rxLen = 0 ∧
      (rxByte f b blk).block.rxState = .acrch ∧ (rxByte f b blk).out.result = .pending) ∨
    (blk.rxLen ≠ 0 ∧
      (rxByte f b blk).block.rxState = .apay ∧ (rxByte f b blk).out.result = .pending) := by
  rw [rxByte_aaddr hst]
  by_cases hlen : blk.rxLen = 0
  · exact .inl ⟨hlen, if_pos hlen, rfl⟩
  · exact .inr ⟨hlen, if_neg hlen, rfl⟩

/-- The rows of a payload byte; by the invariants a byte below the capacity is the last declared or has
one after it. -/
theorem rxByte_row_apay (f : CrcStep) (b : Byte) {blk : Block} (h : blk.Inv)
    (hst : blk.rxState = .apay) :
    (blk.rxPos.val = 120 ∧
      (rxByte f b blk).block.rxState = .acmd ∧ (rxByte f b blk).out.result = .errOverrun) ∨
    (blk.rxPos.val < 120 ∧ blk.rxPos.val + 1 = blk.rxLen.toNat ∧
      (rxByte f b blk).block.rxState = .acrch ∧ (rxByte f b blk).out.result = .pending) ∨
    (blk.rxPos.val < 120 ∧ blk.rxPos.val + 1 < blk.rxLen.toNat ∧
      (rxByte f b blk).block.rxState = .apay ∧ (rxByte f b blk).out.result = .pending) := by
  have hbelow := h.payBelow hst
  rw [rxByte_apay hst]
  by_cases hcap : blk.rxPos.val < Config.maxPayload
  · rw [rxApay_store hcap]
    by_cases hlast : blk.rxPos.val + 1 = blk.rxLen.toNat
    · exact .inr (.inl ⟨hcap, hlast, if_pos hlast, rfl⟩)
    · exact .inr (.inr ⟨hcap, by omega, if_neg hlast, rfl⟩)
  · have hfull : blk.rxPos.val = Config.maxPayload := by have := blk.rxPos.isLt; omega
    rw [rxApay_overrun hfull]
    exact .inl ⟨hfull, rfl, rfl⟩

theorem rxByte_row_acrcl (f : CrcStep) (b : Byte) {blk : Block} (hst : blk.rxState = .acrcl) :
    ((blk.rxCrch ++ b : Word) = blk.rxCrc ∧
      (rxByte f b blk).block.rxState = .acmd ∧ (rxByte f b blk).out.result = .complete) ∨
    ((blk.rxCrch ++ b : Word) ≠ blk.rxCrc ∧
      (rxByte f b blk).block.rxState = .acmd ∧ (rxByte f b blk).out.result = .errCrc) := by
  rw [rxByte_acrcl hst]
  by_cases hm : trailer blk.rxCrch b = blk.rxCrc
  · rw [rxAcrcl_match hm]
    exact .inl ⟨hm, rfl, rfl⟩
  · rw [rxAcrcl_mismatch hm]
    exact .inr ⟨hm, rfl, rfl⟩

/-- The rows of the operations that take no byte. -/
theorem responseFor_row_of_no_byte (f : CrcStep) {i : Instr} (s : State) (hb : takenByte i = none) :
    (i = .rxtimeout ∧ (responseFor f i s).block.rxState = .acmd ∧
      (responseFor f i s).out.result = .timeout) ∨
    (i = .reset ∧ (responseFor f i s).block.rxState = .acmd ∧
      (responseFor f i s).out.result = .ok) ∨
    (i ≠ .rxtimeout ∧ i ≠ .reset ∧ (responseFor f i s).block.rxState = s.block.rxState) := by
  rcases responseFor_cases f i s with
    ⟨b, hb', -⟩ | ⟨hi, hr⟩ | ⟨hi, hr⟩ | ⟨rfl, hr⟩ | ⟨-, hreset, htime, -, hr, -, -⟩
  · simp [hb] at hb'
  · exact .inr (.inl ⟨hi, by rw [hr]; exact ⟨rfl, rfl⟩⟩)
  · exact .inl ⟨hi, by rw [hr]; exact ⟨rfl, rfl⟩⟩
  · exact .inr (.inr ⟨nofun, nofun, by rw [hr]⟩)
  · exact .inr (.inr ⟨htime, hreset, by rw [hr]⟩)

/-- Settles O24: row by row of the table, and POR goes to `ACMD`. -/
theorem transitionTable : Obligations.TransitionTable := by
  refine ⟨fun i s t hinv ht => ?table, fun s t p rest hport hpor ht => ?por⟩
  case por =>
    obtain rfl := Host.Outcome.next.inj ((step_of_por hport hpor).symm.trans ht)
    rfl
  case table =>
    obtain rfl := exec_next.1 ht
    cases hb : takenByte i with
    | none => exact responseFor_row_of_no_byte crc16Step s hb
    | some b =>
      simp only [response_of_takenByte hb]
      cases hst : s.block.rxState
      case acmd => exact rxByte_row_acmd crc16Step b hst
      case asize => exact rxByte_asize hst ▸ ⟨rfl, rfl⟩
      case aaddr => exact rxByte_row_aaddr crc16Step b hst
      case apay => exact rxByte_row_apay crc16Step b hinv hst
      case acrch => exact rxByte_acrch hst ▸ ⟨rfl, rfl⟩
      case acrcl => exact rxByte_row_acrcl crc16Step b hst

/-! ## Results and the idle machine -/

theorem rxState_of_complete {f : CrcStep} {b : Byte} {blk : Block}
    (h : (rxByte f b blk).out.result = .complete) : blk.rxState = .acrcl := by
  cases hst : blk.rxState
  case acmd =>
    rw [rxByte_acmd hst] at h
    cases hc : payloadClass b <;> simp [acceptClass, hc, Cause.result] at h
  case asize => simp [rxByte_asize hst] at h
  case aaddr => simp [rxByte_aaddr hst] at h
  case apay => rw [rxByte_apay hst, rxApay] at h; split at h <;> simp [Cause.result] at h
  case acrch => simp [rxByte_acrch hst] at h
  case acrcl => rfl

/-- A byte that is not pending leaves the machine idle (41_rx_framing.md R118). -/
theorem rxByte_idle_of_not_pending {f : CrcStep} {b : Byte} {blk : Block}
    (h : (rxByte f b blk).out.result ≠ .pending) :
    (rxByte f b blk).block.rxState = .acmd ∧ (rxByte f b blk).block.rxPos.val = 0 := by
  rcases rxByte_raises_or_goes_on f b blk with ⟨c, -, hr⟩ | ⟨r, rfl | rfl, hout, -⟩
  · rw [hr]
    exact ⟨rfl, rfl⟩
  · exact absurd (by rw [hout]; rfl) h
  · have hst := rxState_of_complete (f := f) (b := b) (blk := blk) (by rw [hout]; rfl)
    rw [rxByte_acrcl hst, rxAcrcl]
    split <;> exact ⟨rfl, rfl⟩

/-! ## The frame in reception -/

/-- The bytes of a frame before its address byte, as the registers keep them (30_encoding.md R63). -/
def Block.header (blk : Block) : List Byte :=
  if payloadClass blk.rxCmdid = .lenN then [blk.rxCmdid, blk.rxLen] else [blk.rxCmdid]

/-- `rx_len` is the payload length that the latched class fixes, and any length byte for the variable
class (30_encoding.md R66). -/
def Block.LenFits (blk : Block) : Prop :=
  match payloadClass blk.rxCmdid with
  | .len0 => blk.rxLen = 0
  | .len2 => blk.rxLen = 2
  | .lenN => True
  | .bad => False

/-- The payload bytes received so far stand in the buffer below `rx_pos` (41_rx_framing.md R114). -/
structure Block.Stores (blk : Block) (p : List Byte) : Prop where
  pos : blk.rxPos.val = p.length
  bytes : ∀ k, (h : k < p.length) → blk.rxBuf.read? k = some p[k]

/-- The bytes `xs` of a frame have been taken, all pending, and the registers hold what they said: the
strengthening of 41_rx_framing.md R119 that every pending byte keeps. In `ACMD` no byte has been taken;
in `ACRCL` the last one is the CRC high byte, which `rx_crc` leaves out. -/
def Block.HasTaken (f : CrcStep) (blk : Block) (xs : List Byte) : Prop :=
  match blk.rxState with
  | .acmd => xs = []
  | .asize => payloadClass blk.rxCmdid = .lenN ∧ blk.rxPos.val = 0 ∧ xs = [blk.rxCmdid] ∧
      blk.rxCrc = crc16Buf f xs
  | .aaddr => blk.LenFits ∧ blk.rxPos.val = 0 ∧ xs = blk.header ∧ blk.rxCrc = crc16Buf f xs
  | .apay => blk.LenFits ∧ blk.rxCrc = crc16Buf f xs ∧ ∃ p, blk.Stores p ∧
      p.length < blk.rxLen.toNat ∧ xs = blk.header ++ blk.rxAddr :: p
  | .acrch => blk.LenFits ∧ blk.rxCrc = crc16Buf f xs ∧ ∃ p, blk.Stores p ∧
      p.length = blk.rxLen.toNat ∧ xs = blk.header ++ blk.rxAddr :: p
  | .acrcl => blk.LenFits ∧ ∃ p, blk.Stores p ∧ p.length = blk.rxLen.toNat ∧
      blk.rxCrc = crc16Buf f (blk.header ++ blk.rxAddr :: p) ∧
      xs = blk.header ++ blk.rxAddr :: p ++ [blk.rxCrch]

/-- How a frame ends with the byte `b` after the pending bytes `xs` (41_rx_framing.md R118, R122). -/
inductive Block.EndsAt (f : CrcStep) (blk : Block) (xs : List Byte) (b : Byte) : Prop
  /-- the first byte has no recognized class (R111) -/
  | badClass (hxs : xs = []) (hclass : payloadClass b = .bad)
      (hr : rxByte f b blk = raiseError (.eClass b) blk)
  /-- the buffer is full and the length byte declared more (R114) -/
  | overrun (cmd len addr : Byte) (p : List Byte) (hxs : xs = [cmd, len, addr] ++ p)
      (hclass : payloadClass cmd = .lenN) (hlen : Config.maxPayload < len.toNat)
      (hp : p.length = Config.maxPayload) (hr : rxByte f b blk = raiseError (.eOverrun b) blk)
  /-- the second trailer byte is compared with the CRC of the body (R116) -/
  | atTrailer (c : FrameCall) (hi : Byte) (hwf : c.wellFormed = true)
      (hxs : xs = FrameCall.body c ++ [hi])
      (hmatch : trailer hi b = crc16Buf f (FrameCall.body c) →
        (rxByte f b blk).out = Outputs.only .complete ∧
        (rxByte f b blk).block.HoldsFrame c.cmd c.addr c.payload)
      (hmismatch : trailer hi b ≠ crc16Buf f (FrameCall.body c) →
        rxByte f b blk = raiseError (.eCrc (trailer hi b)) blk)

section
variable {f : CrcStep} {blk : Block} {xs p : List Byte}

theorem crc16Buf_snoc (f : CrcStep) (xs : List Byte) (b : Byte) :
    crc16Buf f (xs ++ [b]) = f (crc16Buf f xs) b := crc16Buf_append f xs [b]

theorem Block.stores_nil (h : blk.rxPos.val = 0) : blk.Stores [] :=
  ⟨h, fun _ hk => absurd hk (Nat.not_lt_zero _)⟩

theorem Block.Stores.length_le (h : blk.Stores p) : p.length ≤ Config.maxPayload := by
  have := blk.rxPos.isLt
  have := h.pos
  omega

/-- Storing the next byte at `rx_pos` extends the payload. -/
theorem Block.Stores.bytes_write (h : blk.Stores p) (b : Byte) :
    ∀ k, (hk : k < (p ++ [b]).length) →
      (blk.rxBuf.write blk.rxPos.val b).read? k = some (p ++ [b])[k] := by
  intro k hk
  rw [h.pos, Memory.read_write]
  by_cases hkp : k = p.length
  · simp [hkp]
  · have hlt : k < p.length := by rw [List.length_append, List.length_singleton] at hk; omega
    rw [if_neg hkp, h.bytes k hlt, List.getElem_append_left hlt]

/-- The registers after the payload are those of a well-formed call (30_encoding.md R76). -/
theorem Block.LenFits.wellFormed (h : blk.LenFits) (hs : blk.Stores p)
    (hlen : p.length = blk.rxLen.toNat) :
    (FrameCall.mk blk.rxCmdid blk.rxAddr p).wellFormed = true := by
  rw [FrameCall.wellFormed_iff, hlen]
  have hcap : blk.rxLen.toNat ≤ Config.maxPayload := hlen ▸ hs.length_le
  cases hc : payloadClass blk.rxCmdid <;> simp only [LenFits, hc] at h
  case len0 => exact .inl ⟨(payloadClass_eq_iff _ .len0).1 hc, by rw [h]; rfl⟩
  case len2 => exact .inr (.inl ⟨(payloadClass_eq_iff _ .len2).1 hc, by rw [h]; rfl⟩)
  case lenN => exact .inr (.inr ⟨(payloadClass_eq_iff _ .lenN).1 hc, hcap⟩)

theorem Block.body_eq_header_append (hlen : p.length = blk.rxLen.toNat) :
    FrameCall.body ⟨blk.rxCmdid, blk.rxAddr, p⟩ = blk.header ++ blk.rxAddr :: p := by
  have hbyte : BitVec.ofNat 8 p.length = blk.rxLen := by
    rw [hlen, BitVec.ofNat_toNat, BitVec.setWidth_eq]
  by_cases hc : payloadClass blk.rxCmdid = .lenN
  · simp [FrameCall.body_of_lenN (c := ⟨blk.rxCmdid, blk.rxAddr, p⟩) hc, header, hc, hbyte]
  · simp [FrameCall.body_of_fixed (c := ⟨blk.rxCmdid, blk.rxAddr, p⟩) hc, header, hc]

/-! ## One byte -/

theorem Block.HasTaken.step_acmd (h : blk.HasTaken f xs) (hst : blk.rxState = .acmd) (b : Byte) :
    ((rxByte f b blk).out = Outputs.only .pending ∧
      (rxByte f b blk).block.HasTaken f (xs ++ [b])) ∨ blk.EndsAt f xs b := by
  simp only [HasTaken, hst] at h
  subst h
  cases hc : payloadClass b
  case bad => exact .inr (.badClass rfl hc (by rw [rxByte_acmd hst, hc]; rfl))
  all_goals
    rw [rxByte_acmd hst, hc]
    exact .inl ⟨rfl, by simp [acceptClass, HasTaken, LenFits, header, hc, crc16Buf]⟩

theorem Block.HasTaken.step_asize (h : blk.HasTaken f xs) (hst : blk.rxState = .asize) (b : Byte) :
    (rxAsize f b blk).block.HasTaken f (xs ++ [b]) := by
  simp only [HasTaken, hst] at h
  obtain ⟨hc, hpos, rfl, hcrc⟩ := h
  simp [HasTaken, LenFits, header, hc, hpos, hcrc, crc16Buf]

/-- With no payload declared the trailer is next, and the empty payload is complete. -/
theorem Block.HasTaken.step_aaddr (h : blk.HasTaken f xs) (hst : blk.rxState = .aaddr) (b : Byte) :
    (rxAaddr f b blk).block.HasTaken f (xs ++ [b]) := by
  simp only [HasTaken, hst] at h
  obtain ⟨hfits, hpos, rfl, hcrc⟩ := h
  have hs : (rxAaddr f b blk).block.Stores [] := stores_nil hpos
  have hcrc' : f blk.rxCrc b = crc16Buf f (blk.header ++ [b]) := by rw [crc16Buf_snoc, hcrc]
  by_cases hlen : blk.rxLen = 0
  · have hst' : (rxAaddr f b blk).block.rxState = .acrch := if_pos hlen
    simp only [HasTaken, hst']
    exact ⟨hfits, hcrc', [], hs, (congrArg BitVec.toNat hlen).symm, rfl⟩
  · have hst' : (rxAaddr f b blk).block.rxState = .apay := if_neg hlen
    have hlenPos : 0 < blk.rxLen.toNat :=
      Nat.pos_of_ne_zero fun h0 => hlen (BitVec.eq_of_toNat_eq h0)
    simp only [HasTaken, hst']
    exact ⟨hfits, hcrc', [], hs, hlenPos, rfl⟩

theorem Block.LenFits.lenN_of_lt (h : blk.LenFits) (hlen : Config.maxPayload < blk.rxLen.toNat) :
    payloadClass blk.rxCmdid = .lenN := by
  cases hc : payloadClass blk.rxCmdid <;> simp only [LenFits, hc] at h
  case lenN => rfl
  all_goals simp [h] at hlen

/-- Below the capacity the byte extends the stored payload; at the capacity the declared length is larger
still. -/
theorem Block.HasTaken.step_apay (h : blk.HasTaken f xs) (hst : blk.rxState = .apay) (b : Byte) :
    ((rxByte f b blk).out = Outputs.only .pending ∧
      (rxByte f b blk).block.HasTaken f (xs ++ [b])) ∨ blk.EndsAt f xs b := by
  simp only [HasTaken, hst] at h
  obtain ⟨hfits, hcrc, p, hs, hlt, rfl⟩ := h
  have hpos := hs.pos
  by_cases hcap : blk.rxPos.val < Config.maxPayload
  · have hcrc' : f blk.rxCrc b = crc16Buf f (blk.header ++ blk.rxAddr :: p ++ [b]) := by
      rw [crc16Buf_snoc, hcrc]
    have hpos' : blk.rxPos.val + 1 = (p ++ [b]).length := by simp [hpos]
    have happ : blk.header ++ blk.rxAddr :: p ++ [b] = blk.header ++ blk.rxAddr :: (p ++ [b]) := by
      simp
    rw [rxByte_apay hst, rxApay_store hcap]
    refine .inl ⟨rfl, ?_⟩
    by_cases hlast : blk.rxPos.val + 1 = blk.rxLen.toNat
    · simp only [HasTaken, if_pos hlast]
      exact ⟨hfits, hcrc', p ++ [b], ⟨hpos', hs.bytes_write b⟩, hpos' ▸ hlast, happ⟩
    · simp only [HasTaken, if_neg hlast]
      exact ⟨hfits, hcrc', p ++ [b], ⟨hpos', hs.bytes_write b⟩, by omega, happ⟩
  · have hfull : blk.rxPos.val = Config.maxPayload := by have := blk.rxPos.isLt; omega
    have hlen : Config.maxPayload < blk.rxLen.toNat := by omega
    have hc := hfits.lenN_of_lt hlen
    exact .inr (.overrun blk.rxCmdid blk.rxLen blk.rxAddr p (by simp [header, hc]) hc hlen
      (hpos ▸ hfull) (by rw [rxByte_apay hst, rxApay_overrun hfull]))

theorem Block.HasTaken.step_acrch (h : blk.HasTaken f xs) (hst : blk.rxState = .acrch) (b : Byte) :
    (rxAcrch b blk).block.HasTaken f (xs ++ [b]) := by
  simp only [HasTaken, hst] at h
  obtain ⟨hfits, hcrc, p, hs, hlen, rfl⟩ := h
  exact ⟨hfits, p, ⟨hs.pos, hs.bytes⟩, hlen, hcrc, rfl⟩

/-- The comparison is with the CRC of the body of the call that the registers hold. -/
theorem Block.HasTaken.endsAt_acrcl (h : blk.HasTaken f xs) (hst : blk.rxState = .acrcl) (b : Byte) :
    blk.EndsAt f xs b := by
  simp only [HasTaken, hst] at h
  obtain ⟨hfits, p, hs, hlen, hcrc, rfl⟩ := h
  rw [← body_eq_header_append hlen] at hcrc ⊢
  refine .atTrailer _ blk.rxCrch (hfits.wellFormed hs hlen) rfl ?_ ?_ <;>
    rw [← hcrc, rxByte_acrcl hst]
  · intro hm
    rw [rxAcrcl_match hm]
    exact ⟨rfl, rfl, rfl, rfl, rfl, rfl, hlen.symm, hs.bytes⟩
  · exact rxAcrcl_mismatch

/-- Each byte is pending and the registers go on holding what has been taken, or the frame ends with
it. -/
theorem Block.HasTaken.step (h : blk.HasTaken f xs) (b : Byte) :
    ((rxByte f b blk).out = Outputs.only .pending ∧
      (rxByte f b blk).block.HasTaken f (xs ++ [b])) ∨ blk.EndsAt f xs b := by
  cases hst : blk.rxState
  case acmd => exact h.step_acmd hst b
  case asize => exact .inl (rxByte_asize hst ▸ ⟨rfl, h.step_asize hst b⟩)
  case aaddr => exact .inl (rxByte_aaddr hst ▸ ⟨rfl, h.step_aaddr hst b⟩)
  case apay => exact h.step_apay hst b
  case acrch => exact .inl (rxByte_acrch hst ▸ ⟨rfl, h.step_acrch hst b⟩)
  case acrcl => exact .inr (h.endsAt_acrcl hst b)

end

/-! ## Where the header says a frame ends -/

section
variable {f : CrcStep} {blk : Block} {xs p : List Byte}

/-- The address byte, the payload up to the byte that overruns, and the trailer unless it overruns. -/
theorem Block.LenFits.frameEnd_header (h : blk.LenFits) (ys : List Byte) :
    frameEnd (blk.header ++ ys) = some (blk.header.length + 1 +
      if blk.rxLen.toNat ≤ Config.maxPayload then blk.rxLen.toNat + 2
      else Config.maxPayload + 1) := by
  cases hc : payloadClass blk.rxCmdid <;> simp only [LenFits, hc] at h
  case len0 => simp [header, frameEnd, hc, h]
  case len2 => simp [header, frameEnd, hc, h, Config.maxPayload]
  case lenN =>
    simp only [header, frameEnd, hc, if_true, List.cons_append, List.length_cons, List.length_nil]
    split <;> congr 1
    omega

/-- As long as bytes are pending the frame has not reached its end. -/
theorem Block.HasTaken.length_lt {n : Nat} (h : blk.HasTaken f xs) (hn : frameEnd xs = some n) :
    xs.length < n := by
  have hend : blk.LenFits → ∀ ys, xs = blk.header ++ ys → n = _ := fun hfits ys hxs =>
    Option.some.inj (hn.symm.trans (hxs ▸ hfits.frameEnd_header ys))
  cases hst : blk.rxState <;> simp only [HasTaken, hst] at h
  case acmd => simp [h, frameEnd] at hn
  case asize =>
    obtain ⟨hc, -, rfl, -⟩ := h
    simp [frameEnd, hc] at hn
  case aaddr =>
    obtain ⟨hfits, -, hxs, -⟩ := h
    rw [hend hfits [] (by rw [hxs, List.append_nil]), hxs]
    omega
  case apay | acrch =>
    obtain ⟨hfits, -, p, hs, hplen, hxs⟩ := h
    have hcap := hs.length_le
    rw [hend hfits _ hxs, hxs, List.length_append, List.length_cons]
    split <;> omega
  case acrcl =>
    obtain ⟨hfits, p, hs, hlen, -, hxs⟩ := h
    have hcap := hs.length_le
    rw [hend hfits _ (by rw [hxs, List.append_assoc]), hxs]
    simp only [List.length_append, List.length_cons, List.length_nil]
    split <;> omega

end

/-- The payload length of a well-formed call fits its length byte (30_encoding.md R76). -/
theorem FrameCall.toNat_lengthByte {c : FrameCall} (h : c.wellFormed = true) :
    (BitVec.ofNat 8 c.payload.length).toNat = c.payload.length := by
  have hcap : c.payload.length ≤ 120 := FrameCall.length_le_of_wellFormed h
  rw [BitVec.toNat_ofNat, Nat.mod_eq_of_lt (by omega)]

theorem FrameCall.frameEnd_body {c : FrameCall} (h : c.wellFormed = true) (ys : List Byte) :
    frameEnd (FrameCall.body c ++ ys) = some ((FrameCall.body c).length + 2) := by
  have hbyte := FrameCall.toNat_lengthByte h
  rw [FrameCall.wellFormed_iff] at h
  rcases h with ⟨hb, hlen⟩ | ⟨hb, hlen⟩ | ⟨hb, hlen⟩
  · simp [FrameCall.body, frameEnd, (payloadClass_eq_iff c.cmd .len0).2 hb, hlen]
  · simp [FrameCall.body, frameEnd, (payloadClass_eq_iff c.cmd .len2).2 hb, hlen]
  · simp only [FrameCall.body, frameEnd, (payloadClass_eq_iff c.cmd .lenN).2 hb, hbyte, hlen, if_true,
      List.cons_append, List.nil_append, List.length_cons]
    congr 1
    omega

/-- The length byte of a variable frame declares more payload than the buffer holds
(41_rx_framing.md R114). -/
def DeclaresOverrun (bs : List Byte) : Prop :=
  ∃ b l rest, bs = b :: l :: rest ∧ b.extractLsb' 1 2 = 0b10#2 ∧ 120 < l.toNat

theorem FrameCall.not_declaresOverrun {c : FrameCall} (h : c.wellFormed = true) (ys : List Byte) :
    ¬ DeclaresOverrun (FrameCall.body c ++ ys) := by
  rintro ⟨b, l, rest, hbs, hb, hl⟩
  rw [← payloadClass_eq_lenN_iff] at hb
  have hcap : c.payload.length ≤ 120 := FrameCall.length_le_of_wellFormed h
  by_cases hc : payloadClass c.cmd = .lenN
  · rw [FrameCall.body_of_lenN hc] at hbs
    obtain ⟨-, rfl, -⟩ : c.cmd = b ∧ BitVec.ofNat 8 c.payload.length = l ∧ _ := by simpa using hbs
    rw [FrameCall.toNat_lengthByte h] at hl
    omega
  · rw [FrameCall.body_of_fixed hc] at hbs
    simp only [List.cons_append, List.cons.injEq] at hbs
    exact hc (hbs.1 ▸ hb)

theorem FrameCall.body_injective {c c' : FrameCall} (h : FrameCall.body c = FrameCall.body c') :
    c = c' := by
  obtain ⟨cmd, addr, p⟩ := c
  obtain ⟨cmd', addr', p'⟩ := c'
  obtain ⟨rfl, h⟩ : cmd = cmd' ∧ _ := by simpa [FrameCall.body] using h
  by_cases hc : payloadClass cmd = .lenN
  · obtain ⟨-, rfl, rfl⟩ :
        BitVec.ofNat 8 p.length = BitVec.ofNat 8 p'.length ∧ addr = addr' ∧ p = p' := by
      simpa [hc] using h
    rfl
  · simpa [hc] using h

section
variable {f : CrcStep} {blk : Block} {xs : List Byte} {b : Byte}

/-- The byte that ends a frame is the one the header says. -/
theorem Block.EndsAt.frameEnd_eq (h : blk.EndsAt f xs b) (ys : List Byte) :
    frameEnd (xs ++ b :: ys) = some (xs.length + 1) := by
  cases h with
  | badClass hxs hclass => simp [hxs, frameEnd, hclass]
  | overrun cmd len addr p hxs hclass hlen hp =>
    simp [hxs, frameEnd, hclass, hp, Nat.not_le.2 hlen]
  | atTrailer c hi hwf hxs =>
    rw [hxs, List.append_assoc, FrameCall.frameEnd_body hwf]
    simp

/-- The result that ends a frame tells its causes apart (41_rx_framing.md R122). -/
theorem Block.EndsAt.result (h : blk.EndsAt f xs b) (ys : List Byte) :
    (rxByte f b blk).out.result ≠ .pending ∧
    ((rxByte f b blk).out.result = .errClass ↔ xs = []) ∧
    ((rxByte f b blk).out.result = .errOverrun ↔ DeclaresOverrun (xs ++ b :: ys)) := by
  cases h with
  | badClass hxs hclass hr =>
    rw [payloadClass_eq_bad_iff] at hclass
    simp [hxs, hr, Cause.result, DeclaresOverrun, hclass]
  | overrun cmd len addr p hxs hclass hlen hp hr =>
    have hover : DeclaresOverrun (xs ++ b :: ys) :=
      ⟨cmd, len, _, by rw [hxs]; rfl, (payloadClass_eq_lenN_iff cmd).1 hclass, hlen⟩
    have hne : xs ≠ [] := by simp [hxs]
    simp [hr, Cause.result, hover, hne]
  | atTrailer c hi hwf hxs hmatch hmismatch =>
    have hover : ¬ DeclaresOverrun (xs ++ b :: ys) := by
      rw [hxs, List.append_assoc]
      exact FrameCall.not_declaresOverrun hwf _
    have hne : xs ≠ [] := by simp [hxs]
    by_cases hm : trailer hi b = crc16Buf f (FrameCall.body c)
    · simp [(hmatch hm).1, hover, hne]
    · simp [hmismatch hm, Cause.result, hover, hne]

end

/-! ## Runs -/

section
variable {blk : Block} {zs : List Byte}

theorem Block.hasTaken_nil (f : CrcStep) (hst : blk.rxState = .acmd) : blk.HasTaken f [] := by
  simp only [HasTaken, hst]

theorem rxRun_snoc (f : CrcStep) (xs : List Byte) (b : Byte) (blk : Block) :
    rxRun f (xs ++ [b]) blk =
      ((rxByte f b (rxRun f xs blk).1).block,
       (rxRun f xs blk).2 ++ [(rxByte f b (rxRun f xs blk).1).out]) := rxRun_append f xs [b] blk

/-- The outputs of a run whose bytes are all pending. -/
def Pends (f : CrcStep) (xs : List Byte) (blk : Block) : Prop :=
  (rxRun f xs blk).2 = List.replicate xs.length (Outputs.only .pending)

/-- A run from `ACMD` pends to its end, or one of its bytes ends the frame of the bytes before it. -/
theorem rxRun_pends_or_ends (f : CrcStep) (hst : blk.rxState = .acmd) (bs : List Byte) :
    (Pends f bs blk ∧ (rxRun f bs blk).1.HasTaken f bs) ∨
    ∃ xs b ys, bs = xs ++ b :: ys ∧ Pends f xs blk ∧ (rxRun f xs blk).1.EndsAt f xs b := by
  induction bs using List.reverseRecOn with
  | nil => exact .inl ⟨rfl, Block.hasTaken_nil f hst⟩
  | append_singleton bs b ih =>
    rcases ih with ⟨hpend, htaken⟩ | ⟨xs, b', ys, rfl, hpend, hend⟩
    · rcases htaken.step b with ⟨hout, htaken'⟩ | hend
      · refine .inl ⟨?_, ?_⟩
        · rw [Pends] at hpend ⊢
          simp [rxRun_snoc, hpend, hout, List.replicate_succ']
        · rwa [rxRun_snoc]
      · exact .inr ⟨bs, b, [], rfl, hpend, hend⟩
    · exact .inr ⟨xs, b', ys ++ [b], by simp, hpend, hend⟩

/-- A run that ends where the header says, without overrun, is the body of a call and two trailer bytes;
the last byte completes exactly when they are the CRC of the body. -/
theorem rxRun_ends_at_trailer (f : CrcStep) (hst : blk.rxState = .acmd)
    (hend : frameEnd zs = some zs.length) (hlen : zs.length ≠ 1) (hover : ¬ DeclaresOverrun zs) :
    ∃ c hi lo, zs = FrameCall.body c ++ [hi, lo] ∧
      (trailer hi lo = crc16Buf f (FrameCall.body c) →
        (rxRun f zs blk).2 =
          List.replicate (zs.length - 1) (Outputs.only .pending) ++ [Outputs.only .complete] ∧
        (rxRun f zs blk).1.HoldsFrame c.cmd c.addr c.payload) ∧
      (trailer hi lo ≠ crc16Buf f (FrameCall.body c) →
        (rxRun f zs blk).2.map Outputs.result =
          List.replicate (zs.length - 1) .pending ++ [.errCrc]) := by
  rcases rxRun_pends_or_ends f hst zs with ⟨-, htaken⟩ | ⟨xs, lo, ys, rfl, hpend, hlast⟩
  · exact absurd (htaken.length_lt hend) (Nat.lt_irrefl _)
  · have hys : ys = [] := by
      have := Option.some.inj ((hlast.frameEnd_eq ys).symm.trans hend)
      rw [← List.length_eq_zero_iff]
      simp only [List.length_append, List.length_cons] at this
      omega
    subst hys
    have hlen' : (xs ++ [lo]).length - 1 = xs.length := by simp
    rw [Pends] at hpend
    obtain ⟨-, -, hovr⟩ := hlast.result []
    rw [rxRun_snoc, hlen', hpend]
    cases hlast with
    | badClass hxs => exact absurd (by rw [hxs]; rfl) hlen
    | overrun _ _ _ _ _ _ _ _ hr => exact absurd (hovr.1 (by rw [hr]; rfl)) hover
    | atTrailer c hi _ hxs hmatch hmismatch =>
      refine ⟨c, hi, lo, by rw [hxs, List.append_assoc]; rfl, fun hm => ?_, fun hm => ?_⟩
      · exact ⟨by rw [(hmatch hm).1], (hmatch hm).2⟩
      · simp [hmismatch hm, Cause.result]

/-- A run without an error leaves the status as it is (10_state.md R20). -/
theorem rxRun_status_of_no_error (f : CrcStep) (bs : List Byte) (blk : Block)
    (h : ∀ o ∈ (rxRun f bs blk).2, o.result = .pending ∨ o.result = .complete) :
    (rxRun f bs blk).1.status = blk.status := by
  induction bs generalizing blk with
  | nil => rfl
  | cons b bs ih =>
    rw [rxRun_cons] at h ⊢
    rw [List.forall_mem_cons] at h
    rw [ih _ h.2]
    rcases rxByte_raises_or_goes_on f b blk with ⟨c, hc, hr⟩ | ⟨-, -, -, hst, -⟩
    · have hres := h.1
      rw [hr] at hres
      cases c <;> simp [Cause.result] at hres
    · exact hst

end

/-! ## Whole frames -/

/-- The header of a well-formed frame announces its own length, and no overrun. -/
theorem frameEnd_of_frame {f : CrcStep} {c : FrameCall} {bs : List Byte} (h : frame f c = some bs) :
    frameEnd bs = some bs.length ∧ bs.length ≠ 1 ∧ ¬ DeclaresOverrun bs := by
  obtain ⟨hwf, rfl⟩ := (frame_eq_some_iff f c bs).1 h
  exact ⟨by simp [FrameCall.frameEnd_body hwf], by simp, FrameCall.not_declaresOverrun hwf _⟩

/-- Bodies and trailers are told apart by their lengths. -/
theorem append_pair_inj {xs ys : List Byte} {a b c d : Byte} (h : xs ++ [a, b] = ys ++ [c, d]) :
    xs = ys ∧ a = c ∧ b = d := by
  obtain ⟨hxs, hab⟩ := List.append_inj' h rfl
  simpa [hxs] using hab

/-- Settles O51: the run ends at the trailer the header announces; the call it was taken for is the one
that was framed, and its trailer is the CRC of its body. -/
theorem wellFormedFrameIsReceived : Obligations.WellFormedFrameIsReceived := by
  intro f c bs blk hframe hst
  obtain ⟨hend, hlen, hover⟩ := frameEnd_of_frame hframe
  obtain ⟨c', hi, lo, hbs', hmatch, -⟩ := rxRun_ends_at_trailer f hst hend hlen hover
  obtain ⟨-, hbs⟩ := (frame_eq_some_iff f c bs).1 hframe
  obtain ⟨hbody, rfl, rfl⟩ := append_pair_inj (hbs'.symm.trans hbs)
  obtain rfl := FrameCall.body_injective hbody
  obtain ⟨houts, hholds⟩ := hmatch (hiByte_append_loByte _)
  have hout : ∀ o ∈ (rxRun f bs blk).2, o = Outputs.only .pending ∨ o = Outputs.only .complete := by
    intro o ho
    rw [houts, List.mem_append, List.mem_singleton] at ho
    exact ho.imp_left List.eq_of_mem_replicate
  refine ⟨by simp [houts], fun o ho => ?_, hholds, rxRun_status_of_no_error f bs blk fun o ho => ?_⟩
  · rcases hout o ho with rfl | rfl <;> rfl
  · exact (hout o ho).imp (congrArg Outputs.result) (congrArg Outputs.result)

/-- Settles O49: a run that pends to its end leaves the registers with what was taken. -/
theorem runningCrcTracksTheFrame : Obligations.RunningCrcTracksTheFrame := by
  intro f blk bs hst hne hpend
  rcases rxRun_pends_or_ends f hst bs with ⟨-, htaken⟩ | ⟨xs, b, ys, rfl, -, hend⟩
  · generalize (rxRun f bs blk).1 = blk' at htaken ⊢
    cases hst' : blk'.rxState <;> simp only [Block.HasTaken, hst'] at htaken
    case acmd => exact absurd htaken hne
    case acrcl =>
      obtain ⟨-, p, -, -, hcrc, rfl⟩ := htaken
      rw [if_pos rfl, List.dropLast_concat]
      exact ⟨nofun, hcrc⟩
    case asize | aaddr => simp [htaken]
    case apay | acrch => simp [htaken.2.1]
  · refine absurd (hpend _ ?_) (hend.result ys).1
    simp [rxRun_append]

/-- Settles O50: the byte that ends the frame stands where the header says, and its result tells the
cause. -/
theorem frameEndsWhereTheHeaderSays : Obligations.FrameEndsWhereTheHeaderSays := by
  intro f blk bs n hst hn hle
  rcases rxRun_pends_or_ends f hst bs with ⟨-, htaken⟩ | ⟨xs, b, ys, rfl, hpend, hend⟩
  · exact absurd (htaken.length_lt hn) (Nat.not_lt.2 hle)
  · obtain rfl : xs.length + 1 = n := Option.some.inj ((hend.frameEnd_eq ys).symm.trans hn)
    obtain ⟨hres, hclass, hover⟩ := hend.result ys
    obtain ⟨outs, houts⟩ : ∃ outs, (rxRun f (xs ++ b :: ys) blk).2 =
        List.replicate xs.length (Outputs.only .pending) ++
          (rxByte f b (rxRun f xs blk).1).out :: outs := by
      rw [rxRun_append, hpend]
      exact ⟨_, rfl⟩
    refine ⟨fun k hk => ?_, ⟨_, ?_, hres, ?_, hover⟩, ?_⟩
    · rw [houts, List.getElem?_append_left (by simp; omega), List.getElem?_replicate,
        if_pos (by omega)]
      rfl
    · rw [houts]
      simp
    · simp [hclass]
    · have htake : (xs ++ b :: ys).take (xs.length + 1) = xs ++ [b] := by simp [List.take_append]
      rw [htake, rxRun_snoc]
      exact (rxByte_idle_of_not_pending hres).1

/-! ## A frame with one byte changed -/

@[simp] theorem hiByte_trailer (hi lo : Byte) : hiByte (trailer hi lo) = hi :=
  BitVec.extractLsb'_append_eq_left

@[simp] theorem loByte_trailer (hi lo : Byte) : loByte (trailer hi lo) = lo :=
  BitVec.extractLsb'_append_eq_right

/-- A change that leaves the class bits and the length byte alone leaves what the header says. -/
theorem header_set {b v : Byte} {rest : List Byte} {k : Nat}
    (h0 : k = 0 → payloadClass v = payloadClass b) (h1 : payloadClass b = .lenN → k ≠ 1) :
    frameEnd ((b :: rest).set k v) = frameEnd (b :: rest) ∧
    (DeclaresOverrun ((b :: rest).set k v) ↔ DeclaresOverrun (b :: rest)) := by
  match k, rest with
  | 0, _ => simp [frameEnd, DeclaresOverrun, ← payloadClass_eq_lenN_iff, h0]
  | 1, rest =>
    have hne : payloadClass b ≠ .lenN := fun h => h1 h rfl
    refine ⟨?_, by simp [DeclaresOverrun, ← payloadClass_eq_lenN_iff, hne]⟩
    cases hc : payloadClass b
    case lenN => exact absurd hc hne
    all_goals simp [frameEnd, hc]
  | k + 2, [] => exact ⟨rfl, .rfl⟩
  | k + 2, l :: rest => simp [frameEnd, DeclaresOverrun]

/-- A changed byte makes the trailer wrong: before the trailer it changes the CRC of the body, in the
trailer it leaves it (40_crc16.md R99). -/
theorem trailer_ne_of_frame_set {f : CrcStep} {c c' : FrameCall} {bs : List Byte} {k : Nat}
    {v hi lo : Byte} (hframe : frame f c = some bs) (hk : k < bs.length) (hne : bs[k]? ≠ some v)
    (hinj : k + 2 < bs.length → InjectiveInByte f ∧ InjectiveInAccumulator f)
    (hset : bs.set k v = FrameCall.body c' ++ [hi, lo]) :
    trailer hi lo ≠ crc16Buf f (FrameCall.body c') := by
  obtain ⟨-, hbs⟩ := (frame_eq_some_iff f c bs).1 hframe
  by_cases hkb : k < (FrameCall.body c).length
  case pos =>
    obtain ⟨hP1, hP2⟩ := hinj (by simp [hbs]; omega)
    have hne' : (FrameCall.body c)[k]? ≠ some v := by
      rwa [hbs, List.getElem?_append_left hkb] at hne
    rw [hbs, List.set_append_left _ _ hkb] at hset
    obtain ⟨hbody, rfl, rfl⟩ := append_pair_inj hset
    rw [← hbody, trailer, hiByte_append_loByte]
    exact (onePositionChangeChangesTheCrc f hP1 hP2 _ k v hkb hne').symm
  case neg =>
    intro hm
    have hbody : FrameCall.body c = FrameCall.body c' := by
      rw [hbs, List.set_append_right _ _ (Nat.not_lt.1 hkb)] at hset
      exact (List.append_inj' hset (by simp)).1
    have hsame : bs.set k v = bs := by rw [hset, hbs, hbody, ← hm, hiByte_trailer, loByte_trailer]
    exact hne (hsame ▸ List.getElem?_set_self hk)

/-- Settles O52: the changed frame ends where the frame did, at a trailer that is wrong. -/
theorem corruptedFrameIsRejected : Obligations.CorruptedFrameIsRejected := by
  intro f c bs blk k v hframe hst hk hne hclass hsize hinj
  obtain ⟨hend, hlen, hover⟩ := frameEnd_of_frame hframe
  obtain ⟨rest, hrest⟩ : ∃ rest, bs = c.cmd :: rest := ⟨_, ((frame_eq_some_iff f c bs).1 hframe).2⟩
  have h0 : k = 0 → payloadClass v = payloadClass c.cmd := fun h => by
    rw [payloadClass_eq_iff, bits_payloadClass, hclass h]
  have h1 : payloadClass c.cmd = .lenN → k ≠ 1 := fun h => hsize ((payloadClass_eq_lenN_iff _).1 h)
  obtain ⟨hendSet, hoverSet⟩ := hrest ▸ header_set (rest := rest) h0 h1
  obtain ⟨c', hi, lo, hset, -, hmismatch⟩ := rxRun_ends_at_trailer f hst
    (zs := bs.set k v) (by rw [hendSet, hend, List.length_set]) (by rwa [List.length_set])
    (by rwa [hoverSet])
  rw [List.length_set] at hmismatch
  exact hmismatch (trailer_ne_of_frame_set hframe hk hne hinj hset)

/-! ## RECV (41_rx_framing.md R121) -/

/-- The five results of `RECV`. -/
abbrev recvResults : List Result := [.complete, .errClass, .errOverrun, .errCrc, .timeout]

/-- The state after an RXBYTE. -/
def State.afterByte (f : CrcStep) (b : Byte) (s : State) : State :=
  { s with block := (rxByte f b s.block).block, out := (rxByte f b s.block).out }

/-- The loop goes on only after a pending byte. -/
theorem recvLoop_byte (f : CrcStep) (b : Byte) (rest : List (Option Byte)) (n : Nat) (s : State) :
    recvLoop f (some b :: rest) n s =
      if (rxByte f b s.block).out.result = .pending then recvLoop f rest n (s.afterByte f b)
      else .next (s.afterByte f b,
        if (rxByte f b s.block).out.purgeReq then Transport.purge ⟨rest, n⟩ else ⟨rest, n⟩) := by
  rw [recvLoop, execFor_eq_respond, andThen_respond]
  rfl

theorem mem_recvResults {r : Result}
    (h : r ∈ [Result.pending, .complete, .errClass, .errOverrun, .errCrc]) (hne : r ≠ .pending) :
    r ∈ recvResults := by
  revert r
  decide

theorem recvLoop_ends (f : CrcStep) (answers : List (Option Byte)) (n : Nat) (s : State) :
    ∃ t tr', recvLoop f answers n s = .next (t, tr') ∧ t.out.result ∈ recvResults ∧
      t.block.rxState = .acmd ∧ t.block.rxPos.val = 0 := by
  have htimeout : Result.timeout ∈ recvResults := by decide
  induction answers generalizing s with
  | nil => exact ⟨_, _, rfl, htimeout, rfl, rfl⟩
  | cons a rest ih =>
    cases a with
    | none => exact ⟨_, _, rfl, htimeout, rfl, rfl⟩
    | some b =>
      rw [recvLoop_byte]
      split
      next => exact ih _
      next hres =>
        exact ⟨_, _, rfl, mem_recvResults (rxByte_result_mem f b s.block) hres,
          rxByte_idle_of_not_pending hres⟩

/-- The header says where the frame ends, at byte 125 at the latest (30_encoding.md R64), or it is not
complete. -/
theorem frameEnd_cases (xs : List Byte) :
    (frameEnd xs = none ∧ xs.length ≤ 1) ∨ ∃ n, n ≤ 125 ∧ frameEnd xs = some n := by
  match xs with
  | [] => exact .inl ⟨rfl, by decide⟩
  | b :: rest =>
    cases hc : payloadClass b
    case bad => exact .inr ⟨1, by decide, by simp [frameEnd, hc]⟩
    case len0 => exact .inr ⟨4, by decide, by simp [frameEnd, hc]⟩
    case len2 => exact .inr ⟨6, by decide, by simp [frameEnd, hc]⟩
    case lenN =>
      match rest with
      | [] => exact .inl ⟨by simp [frameEnd, hc], by simp⟩
      | l :: rest =>
        refine .inr ⟨_, ?_, by simp only [frameEnd, hc]; rfl⟩
        simp only [Config.maxPayload]
        split <;> omega

theorem Block.HasTaken.length_lt_longest {f : CrcStep} {blk : Block} {xs : List Byte}
    (h : blk.HasTaken f xs) : xs.length < 125 := by
  rcases frameEnd_cases xs with ⟨-, hshort⟩ | ⟨n, hle, hn⟩
  · exact Nat.lt_of_le_of_lt hshort (by decide)
  · exact Nat.lt_of_lt_of_le (h.length_lt hn) hle

/-- While the transport answers bytes the frame ends before the loop has taken 125 of them. -/
theorem recvLoop_not_timeout {f : CrcStep} {answers : List (Option Byte)} {n : Nat} {s t : State}
    {tr : Transport} {xs : List Byte} (htaken : s.block.HasTaken f xs)
    (hbytes : ∀ k, xs.length + k < 125 → ∃ b, answers[k]? = some (some b))
    (hrun : recvLoop f answers n s = .next (t, tr)) : t.out.result ≠ .timeout := by
  induction answers generalizing s xs with
  | nil =>
    obtain ⟨b, hb⟩ := hbytes 0 htaken.length_lt_longest
    cases hb
  | cons a rest ih =>
    obtain ⟨b, hb⟩ := hbytes 0 htaken.length_lt_longest
    obtain rfl : a = some b := Option.some.inj hb
    rw [recvLoop_byte] at hrun
    split at hrun
    next hres =>
      rcases htaken.step b with ⟨-, htaken'⟩ | hend
      · refine ih htaken' (fun k hk => hbytes (k + 1) ?_) hrun
        rw [List.length_append, List.length_singleton] at hk
        omega
      · exact absurd hres (hend.result []).1
    next hres =>
      obtain ⟨rfl, -⟩ := Prod.mk.inj (Host.Outcome.next.inj hrun)
      intro htime
      have hmem := rxByte_result_mem f b s.block
      rw [show (rxByte f b s.block).out.result = .timeout from htime] at hmem
      simp at hmem

/-- Settles O54: the loop ends with the answers at the latest, and while they are bytes with the
frame. -/
theorem receiveLoopEnds : Obligations.ReceiveLoopEnds := by
  intro f tr s
  obtain ⟨t, tr', hrun, hres, hst, hpos⟩ := recvLoop_ends f tr.answers tr.purges s
  refine ⟨t, tr', hrun, hres, hst, hpos, fun hidle hbytes => ?_⟩
  exact recvLoop_not_timeout (Block.hasTaken_nil f hidle)
    (fun k hk => hbytes k (by simpa using hk)) hrun

/-! ## A held frame (41_rx_framing.md R120) -/

/-- The bytes of the first `n` locations of the buffer. -/
def Memory.firstBytes (m : Memory) (n : Nat) : List Byte := (List.range n).map (m.readByte 0)

theorem Memory.read_of_writtenBelow {m : Memory} {n k : Nat} (h : m.WrittenBelow n) (hk : k < n) :
    m.read? k = some (m.readByte 0 k) := by
  obtain ⟨v, hv⟩ := Option.isSome_iff_exists.1 (h k hk)
  rw [hv, Memory.readByte_of_read hv]

/-- A block of the hardware that has `rx_valid` set holds a frame. -/
theorem Block.Inv.holdsFrame {b : Block} (h : b.Inv) (hv : b.rxValid = true) :
    ∃ p : List Byte, p.length ≤ 120 ∧ b.HoldsFrame b.rxCmdid b.rxAddr p := by
  obtain ⟨hst, hpos, hlen⟩ := h.held hv
  have hp : (b.rxBuf.firstBytes b.rxLen.toNat).length = b.rxLen.toNat := by
    simp [Memory.firstBytes]
  refine ⟨b.rxBuf.firstBytes b.rxLen.toNat, by rwa [hp], hv, hst, hpos, rfl, rfl, hp.symm, ?_⟩
  intro k hk
  simp [Memory.firstBytes, Memory.read_of_writtenBelow (h.heldStored hv) (hp ▸ hk)]

theorem Block.HoldsFrame.holdsIndex_eq {b : Block} {cmd addr : Byte} {p : List Byte}
    (h : b.HoldsFrame cmd addr p) (hp : p.length ≤ 120) (idx : BitVec 7) :
    b.holdsIndex idx = decide (idx.toNat < p.length) := by
  rw [Block.holdsIndex, h.valid, h.length]
  grind

/-- The byte that completes a frame is a trailer byte, so the latches keep the header. -/
theorem responseFor_latches_of_complete {f : CrcStep} {i : Instr} {s : State}
    (h : (responseFor f i s).out.result = .complete) :
    (responseFor f i s).block.rxCmdid = s.block.rxCmdid ∧
    (responseFor f i s).block.rxAddr = s.block.rxAddr := by
  cases hb : takenByte i with
  | none =>
    obtain ⟨hcmd, haddr, -⟩ := responseFor_latches_of_no_byte f s hb
    exact ⟨hcmd, haddr⟩
  | some b =>
    rw [responseFor_of_takenByte f hb] at h ⊢
    obtain ⟨hcmd, haddr, -⟩ := rxByte_latches_and_buffer f b s.block
    rw [hcmd, haddr]
    simp [rxState_of_complete h]

theorem exec_bufRead (idx : BitVec 7) (s : State) : exec (.bufRead idx) s = execBufRead idx s := rfl

/-- Settles O53: a completion sets `rx_valid`, and a block of the hardware that has it set holds a frame;
no operation without a byte, but RESET and RXTIMEOUT, writes what holds it; BUF_READ reads it. -/
theorem heldFrameCanBeRead : Obligations.HeldFrameCanBeRead := by
  refine ⟨?completion, ?kept, ?read⟩
  case completion =>
    intro i s t hinv ht hres
    have hv := (validOnlyAfterACompletion i s t hinv ht).2 (.inl hres)
    obtain rfl := exec_next.1 ht
    obtain ⟨hcmd, haddr⟩ := responseFor_latches_of_complete hres
    rw [← hcmd, ← haddr]
    exact (responseFor_inv crc16Step i hinv).holdsFrame hv
  case kept =>
    intro i s t cmd addr p h hb hreset htime ht
    have hblock : t.block = (responseFor crc16Step i s).block := by rw [exec_next.1 ht]
    rw [hblock]
    rcases responseFor_cases crc16Step i s with
      ⟨b, hb', -⟩ | ⟨hi, -⟩ | ⟨hi, -⟩ | ⟨-, hr⟩ | ⟨-, -, -, -, hr, -, -⟩
    · simp [hb] at hb'
    · exact absurd hi hreset
    · exact absurd hi htime
    · rw [hr]
      exact { h with }
    · rw [hr]
      exact h
  case read =>
    intro s cmd addr p idx h hp
    have hidx := h.holdsIndex_eq hp idx
    rw [exec_bufRead, execBufRead, hidx]
    refine ⟨fun hlt => ?_, fun hle => ?_⟩
    · rw [decide_eq_true hlt, if_pos rfl, Memory.readByte_of_read (h.bytes _ hlt)]
      rfl
    · rw [decide_eq_false (Nat.not_lt.2 hle)]
      rfl

end Sys2Proof.Machine
end

section
/-! Proofs of the family 42_control_status.md, and of the idle step, which is NOP. Each operation's
code selects it whatever the fields it does not use hold, and its meaning is the response of the
instruction; the reserved codes, the held index of BUF_READ and the idle step have lemmas of their
own. -/

namespace Sys2Proof.Machine

/-! ## NOP, RESET, ST_READ and ST_CLEAR -/

/-- Settles O1: the code is the word's, and the response of NOP is the block as it stands. -/
theorem nopWritesNothing : Obligations.NopWritesNothing :=
  ⟨fun d c x => by simp [decodeOp], fun s => exec_eq_respond .nop s⟩

/-- Settles O3: the response of RESET is `SessionReset()`. -/
theorem resetIsTheSessionReset : Obligations.ResetIsTheSessionReset :=
  ⟨fun d c x => by simp [decodeOp], fun s => exec_eq_respond .reset s⟩

/-- Settles O4: the response of ST_READ shows the status of the block it keeps. -/
theorem stReadShowsTheStatus : Obligations.StReadShowsTheStatus :=
  ⟨fun d c x => by simp [decodeOp], fun s => exec_eq_respond .stRead s⟩

/-- Settles O5: the response of ST_CLEAR is the block with a clear status. -/
theorem stClearClearsAllFiveFlags : Obligations.StClearClearsAllFiveFlags :=
  ⟨fun d c x => by simp [decodeOp], fun s => exec_eq_respond .stClear s⟩

/-! ## The reserved codes -/

/-- The rows of the seven reserved codes (42_control_status.md R145). -/
abbrev reservedOperations : List Instr :=
  [.reserved9, .reservedA, .reservedB, .reservedC, .reservedD, .reservedE, .reservedF]

theorem exec_of_reserved {i : Instr} (h : i ∈ reservedOperations) (s : State) :
    exec i s = badOperation s := by
  fin_cases h <;> rfl

/-- The codes below 9 are the nine operations, so a word from 9 on decodes to a reserved row
(30_encoding.md R61). -/
theorem decodeOp_mem_reserved {w : OpWord} (h : 9 ≤ w.op.toNat) :
    decodeOp w ∈ reservedOperations := by
  unfold decodeOp
  split
  case h_1 hop | h_2 hop | h_3 hop | h_4 hop | h_5 hop | h_6 hop | h_7 hop | h_8 hop | h_9 hop =>
    simp [hop] at h
  all_goals simp

/-- Settles O2: a reserved row, written or decoded, is `badOperation`. -/
theorem reservedCodesAnswerBadOp : Obligations.ReservedCodesAnswerBadOp :=
  ⟨fun s _ hi => exec_of_reserved hi s,
    fun s _ hw => exec_of_reserved (decodeOp_mem_reserved hw) s⟩

/-! ## BUF_READ -/

theorem Block.holdsIndex_iff (b : Block) (idx : BitVec 7) :
    b.holdsIndex idx = true ↔
      b.rxValid = true ∧ idx.toNat < b.rxLen.toNat ∧ idx.toNat < Config.maxPayload := by
  simp [Block.holdsIndex, and_assoc]

theorem Block.not_holdsIndex_iff (b : Block) (idx : BitVec 7) :
    b.holdsIndex idx = false ↔
      b.rxValid = false ∨ b.rxLen.toNat ≤ idx.toNat ∨ Config.maxPayload ≤ idx.toNat := by
  rw [← Bool.not_eq_true, b.holdsIndex_iff]
  simp only [not_and_or, Bool.not_eq_true, not_lt]

theorem exec_bufRead_of_holdsIndex {s : State} {idx : BitVec 7}
    (h : s.block.holdsIndex idx = true) :
    exec (.bufRead idx) s =
      .next { s with
        out := { Outputs.only .ok with
          dout := s.block.rxBuf.readByte s.powerCycles idx.toNat } } := by
  rw [exec_bufRead, execBufRead, if_pos h]
  rfl

theorem exec_bufRead_of_not_holdsIndex {s : State} {idx : BitVec 7}
    (h : s.block.holdsIndex idx = false) :
    exec (.bufRead idx) s = .next { s with out := Outputs.only .range } := by
  rw [exec_bufRead, execBufRead, h]
  rfl

/-- Settles O6: the two premises are those of a held index and of one that is not. -/
theorem bufReadGivesAHeldByteOrRange : Obligations.BufReadGivesAHeldByteOrRange := by
  refine ⟨fun d c x => by simp [decodeOp], fun s idx => ⟨?held, ?range⟩⟩
  case held =>
    intro hvalid hlen hcap
    have hidx := (s.block.holdsIndex_iff idx).2 ⟨hvalid, hlen, hcap⟩
    exact ⟨_, exec_bufRead_of_holdsIndex hidx, fun w hread => Memory.readByte_of_read hread⟩
  case range =>
    exact fun hnot => exec_bufRead_of_not_holdsIndex ((s.block.not_holdsIndex_iff idx).2 hnot)

/-! ## The idle step -/

theorem State.takeInput_of_port_nil {s : State} (h : s.port = []) : s.takeInput = s := by
  rw [State.takeInput, h, List.tail_nil, ← h]

theorem State.takeInput_of_port_cons {s : State} {p : PortInput} {rest : List PortInput}
    (h : s.port = p :: rest) : s.takeInput = { s with port := rest } := by
  rw [State.takeInput, h, List.tail_cons]

theorem step_of_fetch_instr {s : State} {i : Instr} (h : s.fetch = .instr i) :
    step s = exec i s.takeInput := by
  rw [step, State.stepBy, h]

/-- Settles O35: both ports are fetched as NOP; they differ in what the step takes away. -/
theorem idleStepIsNop : Obligations.IdleStepIsNop := by
  refine ⟨fun s hport => ?empty, fun s rest hport => ?noOperation⟩
  case empty =>
    have hfetch : s.fetch = .instr .nop := by rw [State.fetch, hport]
    rw [step_of_fetch_instr hfetch, State.takeInput_of_port_nil hport]
  case noOperation =>
    have hfetch : s.fetch = .instr .nop := by
      rw [State.fetch, hport]
      rfl
    rw [step_of_fetch_instr hfetch, State.takeInput_of_port_cons hport]

end Sys2Proof.Machine
end

section
/-! Proofs of the family 60_exceptions.md: an operation that reports a cause has answered the error
response, a byte taken reports each framing error exactly under its condition, and a step of one
session writes no other. -/

namespace Sys2Proof.Machine

/-! ## The error response -/

theorem Cause.isFramingError_of_result_mem {c : Cause}
    (h : c.result ∈ [Result.errClass, .errOverrun, .errCrc]) : c.isFramingError = true := by
  cases c
  case eTimeout => simp [Cause.result] at h
  all_goals rfl

/-- An operation that reports a cause answers the error response and nothing else (60_exceptions.md
R164, R165). -/
theorem responseFor_raises_of_result (f : CrcStep) {i : Instr} {s : State}
    (h : (responseFor f i s).out.result ∈ causeResults) :
    ∃ c : Cause, responseFor f i s = raiseError c s.block := by
  rcases responseFor_cases f i s with
    ⟨b, -, hr⟩ | ⟨-, hr⟩ | ⟨-, hr⟩ | ⟨-, hr⟩ | ⟨-, -, -, -, -, -, hres⟩
  · rcases rxByte_raises_or_goes_on f b s.block with ⟨c, -, hc⟩ | ⟨r, hrr, hout, -, -⟩
    · exact ⟨c, hr.trans hc⟩
    · rw [hr, hout] at h
      rcases hrr with rfl | rfl <;> simp at h
  · simp [hr] at h
  · exact ⟨_, hr⟩
  · simp [hr] at h
  · exact absurd h (notMem_causeResults hres)

/-- Settles O21: the operation has answered the error response, and its cause is a framing error. -/
theorem framingErrorResponse : Obligations.FramingErrorResponse := by
  intro i s t ht hres
  obtain rfl := exec_next.1 ht
  obtain ⟨c, hc⟩ : ∃ c, response i s = raiseError c s.block :=
    responseFor_raises_of_result crc16Step (mem_causeResults_of_framing hres)
  rw [hc] at hres ⊢
  have hpurge : (raiseError c s.block).out.purgeReq = s.block.cfgPurge := by
    rw [raiseError_purgeReq, Cause.isFramingError_of_result_mem hres, Bool.true_and]
  rw [← hpurge]
  rfl

/-! ## The causes and their conditions -/

/-- The three framing errors of a byte taken, each in a state of its own (60_exceptions.md R160,
R168). -/
theorem rxByte_framing_result_iff (f : CrcStep) (b : Byte) (blk : Block) :
    ((rxByte f b blk).out.result = .errClass ↔
      blk.rxState = .acmd ∧ b.extractLsb' 1 2 = 0b11#2) ∧
    ((rxByte f b blk).out.result = .errOverrun ↔ blk.rxState = .apay ∧ blk.rxPos.val = 120) ∧
    ((rxByte f b blk).out.result = .errCrc ↔
      blk.rxState = .acrcl ∧ trailer blk.rxCrch b ≠ blk.rxCrc) := by
  rw [← payloadClass_eq_bad_iff]
  cases hst : blk.rxState
  case acmd => rw [rxByte_acmd hst]; cases payloadClass b <;> simp [acceptClass, Cause.result]
  case asize => simp [rxByte_asize hst]
  case aaddr => simp [rxByte_aaddr hst]
  case apay =>
    rw [rxByte_apay hst]
    by_cases hcap : blk.rxPos.val < Config.maxPayload
    · simp [rxApay_store hcap, hcap.ne]
    · have hfull : blk.rxPos.val = Config.maxPayload := by have := blk.rxPos.isLt; omega
      simp [rxApay_overrun hfull, hfull, Cause.result]
  case acrch => simp [rxByte_acrch hst]
  case acrcl =>
    rw [rxByte_acrcl hst]
    by_cases hm : trailer blk.rxCrch b = blk.rxCrc
    · simp [rxAcrcl_match hm, hm]
    · simp [rxAcrcl_mismatch hm, hm, Cause.result]

/-- A framing error is reported only where a byte is taken. -/
theorem responseFor_framing_result_iff (f : CrcStep) (i : Instr) (s : State) {r : Result}
    (h : r ∈ [Result.errClass, .errOverrun, .errCrc]) :
    (responseFor f i s).out.result = r ↔
      ∃ b, takenByte i = some b ∧ (rxByte f b s.block).out.result = r := by
  cases hb : takenByte i with
  | some b => simp [responseFor_of_takenByte f hb]
  | none =>
    have hne : (responseFor f i s).out.result ≠ r := by
      rintro rfl
      rcases responseFor_cases f i s with
        ⟨b, hb', -⟩ | ⟨-, hr⟩ | ⟨-, hr⟩ | ⟨-, hr⟩ | ⟨-, -, -, -, -, -, hres⟩
      · simp [hb] at hb'
      · simp [hr] at h
      · simp [hr, Cause.result] at h
      · simp [hr] at h
      · exact notMem_causeResults hres (mem_causeResults_of_framing h)
    simp [hne]

theorem responseFor_result_timeout_iff (f : CrcStep) (i : Instr) (s : State) :
    (responseFor f i s).out.result = .timeout ↔ i = .rxtimeout := by
  refine ⟨fun h => ?_, fun h => h ▸ rfl⟩
  rcases responseFor_cases f i s with
    ⟨b, -, hr⟩ | ⟨-, hr⟩ | ⟨hi, -⟩ | ⟨-, hr⟩ | ⟨-, -, -, -, -, -, hres⟩
  · have hmem := rxByte_result_mem f b s.block
    rw [← hr, h] at hmem
    simp at hmem
  · simp [hr] at h
  · exact hi
  · simp [hr] at h
  · simp [h] at hres

/-- Settles O22: a framing error is that of the byte taken, a timeout is RXTIMEOUT, and the error
response of each sets COMM. -/
theorem errorCausesAndTheirConditions : Obligations.ErrorCausesAndTheirConditions := by
  intro i s t ht
  obtain rfl := exec_next.1 ht
  have hframing := fun r => responseFor_framing_result_iff crc16Step i s (r := r)
  refine ⟨?errClass, ?errOverrun, ?errCrc, responseFor_result_timeout_iff crc16Step i s, ?comm⟩
  case errClass => simp only [hframing .errClass (by decide), rxByte_framing_result_iff]
  case errOverrun => simp only [hframing .errOverrun (by decide), rxByte_framing_result_iff]
  case errCrc => simp only [hframing .errCrc (by decide), rxByte_framing_result_iff, trailer]
  case comm =>
    intro hres
    obtain ⟨c, hc⟩ : ∃ c, response i s = raiseError c s.block :=
      responseFor_raises_of_result crc16Step hres
    rw [hc, raiseError_status, Status.setComm_comm]

/-! ## Several sessions -/

theorem andThen_eq_next_iff {α β : Type} {o : Host.Outcome α Fault Refusal}
    {k : α → Host.Outcome β Fault Refusal} {b : β} :
    andThen o k = .next b ↔ ∃ a, o = .next a ∧ k a = .next b := by
  cases o <;> simp [andThen]

/-- A step of a session that there is writes that session. -/
theorem stepSession_of_next {f : CrcStep} {k : Nat} {ss : List State} {s s' : State}
    (hs : ss[k]? = some s) (hstep : stepFor f s = .next s') :
    stepSession f k ss = .next (ss.set k s') := by
  simp only [stepSession, hs, hstep, andThen_next]

/-- The inversion lemma of `stepSession`: there is no such session, or that one is written. -/
theorem stepSession_next {f : CrcStep} {k : Nat} {ss ss' : List State}
    (h : stepSession f k ss = .next ss') :
    ss' = ss ∨ ∃ s', ss' = ss.set k s' := by
  cases hs : ss[k]? with
  | none =>
    simp only [stepSession, hs, Host.Outcome.next.injEq] at h
    exact .inl h.symm
  | some s =>
    simp only [stepSession, hs, andThen_eq_next_iff, Host.Outcome.next.injEq] at h
    obtain ⟨s', -, hset⟩ := h
    exact .inr ⟨s', hset.symm⟩

theorem stepSession_getElem?_ne {f : CrcStep} {j k : Nat} {ss ss' : List State} (hjk : j ≠ k)
    (h : stepSession f k ss = .next ss') : ss'[j]? = ss[j]? := by
  rcases stepSession_next h with rfl | ⟨s', rfl⟩
  · rfl
  · exact List.getElem?_set_ne hjk.symm

/-- The second of two sessions finds its state as it was, so both steps are made. -/
theorem stepSession_andThen_stepSession {f : CrcStep} {j k : Nat} {ss : List State}
    {s u s' u' : State} (hjk : j ≠ k) (hs : ss[k]? = some s) (hu : ss[j]? = some u)
    (hs' : stepFor f s = .next s') (hu' : stepFor f u = .next u') :
    andThen (stepSession f k ss) (stepSession f j) = .next ((ss.set k s').set j u') := by
  have hfirst := stepSession_of_next hs hs'
  have hkept := stepSession_getElem?_ne hjk hfirst
  rw [hfirst, andThen_next, stepSession_of_next (hkept.trans hu) hu']

/-- Settles O55: a step writes its own session, and writes to two places of a list commute. -/
theorem sessionsAreIndependent : Obligations.SessionsAreIndependent := by
  refine ⟨fun f ss ss' j k => stepSession_getElem?_ne, ?commute⟩
  case commute =>
    intro f ss j k s u s' u' hjk hs hu hs' hu'
    refine ⟨stepSession_andThen_stepSession hjk hs hu hs' hu', ?_⟩
    rw [stepSession_andThen_stepSession hjk.symm hu hs hu' hs', List.set_comm _ _ hjk]

end Sys2Proof.Machine
end

section
/-! PROOF. The statement of power-on reset with operations beside it (O36), by the step lemma
`step_of_por` and the state's rules for `State.por` and `State.takeInput`. -/

namespace Sys2Proof.Machine

/-- Settles O36: the step is `State.por`, whatever was presented; the port it takes the input from
holds neither a register nor an output. -/
theorem powerOnResetOverridesOperations : Obligations.PowerOnResetOverridesOperations := by
  intro s p rest hport hpor
  refine ⟨s.takeInput.por, step_of_por hport hpor, ?block, ?out⟩
  case block =>
    rw [State.por_block, State.takeInput_block]
    rfl
  case out => exact State.por_out s.takeInput

end Sys2Proof.Machine
end

section
/-! PROOFS. The statements of the operation port: a step runs the operation decoded from the port's
first input (O34), and power-on reset takes one input (O58). -/

namespace Sys2Proof.Machine

/-! ## One code at the head of the port -/

/-- The rule of `step` for a code presented: it is decoded and run on the state it was presented to. -/
theorem step_present (s : State) (c : Code) : step (s.present c) = exec (decode c) s := by
  rw [step_of_fetch_instr (s.fetch_present c), s.takeInput_present c]

/-- A port with one code at its head is that code presented before the inputs behind it. -/
theorem State.eq_present_of_port_cons {s : State} {c : Code} {rest : List PortInput}
    (h : s.port = { por := false, ops := [c] } :: rest) : s = { s with port := rest }.present c := by
  rw [State.present, ← h]

/-! ## A row's word at the port -/

theorem decodeTableWord_eq_some_iff {nbits w : Nat} {i : Instr} :
    decodeTableWord nbits w = some i ↔ ∃ c, tableCode nbits w = .ok c ∧ decode c = i := by
  rw [decodeTableWord]
  cases tableCode nbits w with
  | ok c => simp
  | error e => simp

theorem State.withFetchWord_of_tableCode {nbits w : Nat} {c : Code} (s : State)
    (h : tableCode nbits w = .ok c) : s.withFetchWord nbits w = s.present c := by
  rw [State.withFetchWord, h]

/-- Settles O34: in both clauses the state is one code presented to the state the operation is run
on. -/
theorem stepRunsTheDecodedOperation : Obligations.StepRunsTheDecodedOperation := by
  refine ⟨fun s c rest hport => ?head, fun s nbits w i hdecode => ?word⟩
  case head => exact (congrArg step (State.eq_present_of_port_cons hport)).trans (step_present _ c)
  case word =>
    obtain ⟨c, hcode, rfl⟩ := decodeTableWord_eq_some_iff.1 hdecode
    rw [s.withFetchWord_of_tableCode hcode, step_present]

/-! ## Power-on reset at the port -/

/-- Settles O58: the next state is `State.por` of the state whose first input is taken, and
`State.por` leaves the port alone and begins the next power cycle. -/
theorem powerOnResetTakesOneInput : Obligations.PowerOnResetTakesOneInput := by
  intro s p rest hport hpor
  refine ⟨s.takeInput.por, step_of_por hport hpor, ?port, ?cycles⟩
  case port => rw [State.por_port, State.takeInput_port, hport, List.tail_cons]
  case cycles => rw [State.por_powerCycles, State.takeInput_powerCycles]

end Sys2Proof.Machine
end
